-- ==== Sys2Proof/Word.lean ====
section
/-!
DEFINITION. The word types of the CORE (spec/00_scope.md R6: every value is an unsigned bit vector of a stated
width, bit 0 least significant). Arithmetic is that of `BitVec`: it wraps and never faults (R8).
-/
namespace Sys2Proof

/-- A 32-bit word: a Sample, a word of generator state, a deck element, a command word (R5, parameter `W`). -/
abbrev Word := BitVec 32

/-- A 64-bit value: `wdata`, `rdata`, `FINFO`, the PCG32 state (R5, parameter `DATA_W`). -/
abbrev DWord := BitVec 64

end Sys2Proof
end

