-- ==== Sys2Proof/Config.lean ====
section
/-!
DEFINITION. What an implementation fixes (the OPEN parameters of spec/00_scope.md R5) and the free values of the
model. Every constant here that the spec leaves open is opaque WITHOUT a body: nothing in Lean can evaluate it,
so what is proved holds whatever it is. The fixed constants of R5 are the spec's own numbers.
-/
namespace Sys2Proof

/-! ## Open parameters -/

/-- `WELL_MATRIX` (spec/43_well512a.md R140): a fixed 32-bit constant the spec does not know. Log entry 9. -/
opaque Config.wellMatrix : Word

/-- `DECK_MAX - 1`, any number from 0 to 65534 (R5: 1 <= DECK_MAX <= 65535). Log entry 10. -/
opaque Config.deckLast : Fin 65535

/-- `DECK_MAX` (R5): the number of element slots of the deck memory, 1 to 65535. Log entry 10. -/
def Config.deckMax : Nat := Config.deckLast.val + 1

/-! ## Free values, each applied to the counter `freeCount` of the state -/

/-- What a read of a deck element not written since reset returns (spec/20_memory.md R55, U2). Log entry 7. -/
opaque Config.freeElement : Nat → Word

/-- `S.xs_x` after RESET or `hard_reset` (spec/10_state.md R36). Log entry 4. -/
opaque Config.freeXs : Nat → Word

/-- `S.MT[i]` after RESET or `hard_reset` (R36). Log entry 4. -/
opaque Config.freeMt : Nat → Fin 624 → Word

/-- `S.mt_index` after RESET or `hard_reset` (R36), a number in its range 0..624. Log entry 4. -/
opaque Config.freeMtIndex : Nat → Fin 625

/-- `S.pcg_state` after RESET or `hard_reset` (R36). Log entry 4. -/
opaque Config.freePcg : Nat → DWord

/-- `S.WS[i]` after RESET or `hard_reset` (R36). Log entry 4. -/
opaque Config.freeWs : Nat → Fin 16 → Word

/-- `S.well_index` after RESET or `hard_reset` (R36), a number in its range 0..15. Log entry 4. -/
opaque Config.freeWellIndex : Nat → Fin 16

/-- `rdata` after `hard_reset` (spec/70_reset_and_hazards.md R200, U8). Log entry 12. -/
opaque Config.freeRdata : Nat → DWord

/-- `fault` after `hard_reset` (R200, U8). Log entry 12. -/
opaque Config.freeFaultOut : Nat → BitVec 4

/-! ## Fixed constants (R5) -/

/-- `XS_DIV` = 2^31, the Xorshift32 float divisor. -/
def Config.xsDiv : Nat := 2147483648

/-- `U32_DIV` = 2^32 - 1, the float divisor of MT, PCG and WELL. -/
def Config.u32Div : Nat := 4294967295

/-- `MT_MATRIX`, the twist matrix constant. -/
def Config.mtMatrix : Word := 0x9908B0DF#32

/-- `MT_TMASK_B`, the tempering mask of the left shift by 7. -/
def Config.mtTmaskB : Word := 0x9D2C5680#32

/-- `MT_TMASK_C`, the tempering mask of the left shift by 15. -/
def Config.mtTmaskC : Word := 0xEFC60000#32

/-- `LCG_MULT`, the seed-expansion multiplier of MT and WELL. -/
def Config.lcgMult : Word := 1812433253#32

/-- `PCG_MULT`, the PCG32 multiplier (spec/42_pcg32.md R130). -/
def Config.pcgMult : DWord := 6364136223846793005#64

/-- `PCG_INC`, the PCG32 increment, wired and zero-extended (R130). -/
def Config.pcgInc : DWord := 0x23553F#64

end Sys2Proof
end

