-- ==== Sys2Proof/Machine/Float64.lean ====
section
/-!
DEFINITION. The binary64 arithmetic of the CORE (spec/00_scope.md R9, R10; spec/44_shuffle.md R154), on exact
rationals: `rne64` rounds a non-negative rational to the nearest binary64 value, ties to even, and `f64bits` gives
the encoding. Log entry 14.
-/
namespace Sys2Proof.Machine

/-- 2^e for an integer e. -/
def pow2 (e : Int) : Rat :=
  match e with
  | .ofNat k => ((2 ^ k : Nat) : Rat)
  | .negSucc k => 1 / ((2 ^ (k + 1) : Nat) : Rat)

/-- The integer `e` with 2^e <= q < 2^(e+1), for q > 0 (R9). The difference of the lengths of numerator and
denominator is `e` or `e + 1`. -/
def expOf (q : Rat) : Int :=
  let e : Int := (Nat.log2 q.num.natAbs : Int) - (Nat.log2 q.den : Int)
  if pow2 e ≤ q then e else e - 1

/-- The integer nearest to m; on a tie the even one (R9). -/
def nearestEven (m : Rat) : Int :=
  let k := m.floor
  let d := m - (k : Rat)
  if d < 1 / 2 then k
  else if 1 / 2 < d then k + 1
  else if k % 2 = 0 then k
  else k + 1

/-- `rne64` (R9): the rational value of the binary64 datum nearest to q, for q >= 0. -/
def rne64 (q : Rat) : Rat :=
  if q ≤ 0 then 0
  else
    let ulp := pow2 (expOf q - 52)
    (nearestEven (q / ulp) : Rat) * ulp

/-- `f64bits` (R9): sign 0, the biased exponent, the fraction of a binary64 value v >= 0. -/
def f64bits (v : Rat) : DWord :=
  if v ≤ 0 then 0#64
  else
    let e := expOf v
    let r := (v / pow2 (e - 52)).floor
    (0#1) ++ BitVec.ofInt 11 (e + 1023) ++ BitVec.ofInt 52 (r - 2 ^ 52)

/-- `norm` (R10): a Sample divided by the unit's divisor, rounded once. -/
def normDiv (w : Word) (D : Nat) : Rat := rne64 ((w.toNat : Rat) / (D : Rat))

/-- `shuf_index` (R154): one binary64 multiplication by n, then an exact floor. -/
def shufIndex (f : Rat) (n : Nat) : Nat := (rne64 (f * (n : Rat))).floor.toNat

end Sys2Proof.Machine
end

