-- ==== Sys2Proof/Syntax.lean ====
section
/-!
DEFINITION. The 21 instructions of the CORE (spec/30_encoding.md R74, spec/opcode_table.json) and the four
generator units (R75). The operands `wdata` and `dflt_seed` are not part of the command word (R72): they are
inputs of the step and stand in the state's ports.
-/
namespace Sys2Proof

/-- A generator unit, in the algorithm numbering of R75. -/
inductive GenUnit where
  /-- `alg` 0, the Xorshift32 unit. -/
  | xs
  /-- `alg` 1, the Mersenne Twister unit. -/
  | mt
  /-- `alg` 2, the PCG32 unit. -/
  | pcg
  /-- `alg` 3, the WELL512a-simplified unit. -/
  | well
  deriving DecidableEq, Repr

/-- The instructions, one constructor per row of the opcode table (R74). -/
inductive Instr where
  /-- SEED.XS (R100). -/
  | seedXs
  /-- SEED.MT (R111). -/
  | seedMt
  /-- SEED.PCG (R131). -/
  | seedPcg
  /-- SEED.WELL (R141). -/
  | seedWell
  /-- NEXTU.XS (R102). -/
  | nextuXs
  /-- NEXTU.MT (R115). -/
  | nextuMt
  /-- NEXTU.PCG (R133). -/
  | nextuPcg
  /-- NEXTU.WELL (R143). -/
  | nextuWell
  /-- NEXTF.XS (R103). -/
  | nextfXs
  /-- NEXTF.MT (R116). -/
  | nextfMt
  /-- NEXTF.PCG (R134). -/
  | nextfPcg
  /-- NEXTF.WELL (R144). -/
  | nextfWell
  /-- SHUF.XS (R157). -/
  | shufXs
  /-- SHUF.MT (R158). -/
  | shufMt
  /-- SHUF.PCG (R159). -/
  | shufPcg
  /-- SHUF.WELL (R160). -/
  | shufWell
  /-- DKLEN n (R150). -/
  | dklen (n : BitVec 16)
  /-- DKWR k (R151); the element comes on `wdata`. -/
  | dkwr (k : BitVec 16)
  /-- DKRD k (R152). -/
  | dkrd (k : BitVec 16)
  /-- RDCR r (R170). -/
  | rdcr (r : BitVec 16)
  /-- RESET (R171). -/
  | reset
  deriving DecidableEq, Repr

end Sys2Proof
end

