-- ==== Sys2Proof/Machine/State.lean ====
section
/-!
DEFINITION. The state of the CORE as plain data: the tuple S of spec/10_state.md R20, the interface signals of R34,
and the model's own two fields (what the host does next, and the counter of free values). Log entries 1, 3, 5, 8.
-/
namespace Sys2Proof.Machine

/-- The 624 words of Mersenne Twister state (R22). -/
abbrev MtArray := Vector Word 624

/-- The 16 words of WELL state (R24). -/
abbrev WellArray := Vector Word 16

/-- The deck memory: (element index, element) pairs, indexes strictly rising, one for each element written since
the last reset (spec/10_state.md R26, spec/20_memory.md R54). Its canonical form is `Memory.wf` of Ops. Log entry 6. -/
abbrev Memory := List (Nat × Word)

/-- `S.VALID[0..3]` (R25): which generator units are constructed. -/
structure ValidBits where
  /-- `VALID[0]`. -/
  xs : Bool
  /-- `VALID[1]`. -/
  mt : Bool
  /-- `VALID[2]`. -/
  pcg : Bool
  /-- `VALID[3]`. -/
  well : Bool
  deriving DecidableEq, Repr

/-- The interface signals (R34): the inputs of the command being performed and the last response. -/
structure Port where
  /-- `cmd`, host to CORE. -/
  cmd : Word
  /-- `wdata`, host to CORE. -/
  wdata : DWord
  /-- `dflt_seed`, environment to CORE, under no law. -/
  dfltSeed : Word
  /-- `rdata`, CORE to host. -/
  rdata : DWord
  /-- `fault`, CORE to host: 0, or the fault code of the command that ended. -/
  faultOut : BitVec 4
  deriving DecidableEq, Repr

/-- What the host presents with one command, and the environment with it (R34, R72). -/
structure Transaction where
  /-- The command word. -/
  cmd : Word
  /-- The 64-bit operand. -/
  wdata : DWord
  /-- The substitute seed, any value. -/
  dfltSeed : Word
  deriving DecidableEq, Repr

/-- What the host does to the CORE in one step (R34, spec/70_reset_and_hazards.md R200). -/
inductive Event where
  /-- The host presents a command; the CORE performs it and responds. -/
  | command (t : Transaction)
  /-- `hard_reset` is asserted between two commands. -/
  | hardReset
  /-- `hard_reset` is asserted while this command is executing. -/
  | aborted (t : Transaction)
  deriving DecidableEq, Repr

/-- The whole state. -/
structure State where
  /-- `S.xs_x` (R21). -/
  xsX : Word
  /-- `S.MT` (R22). -/
  mt : MtArray
  /-- `S.mt_index`, 0..624 (R22). -/
  mtIndex : Fin 625
  /-- `S.pcg_state` (R23). -/
  pcgState : DWord
  /-- `S.WS` (R24). -/
  ws : WellArray
  /-- `S.well_index`, 0..15 (R24). -/
  wellIndex : Fin 16
  /-- `S.VALID` (R25). -/
  valid : ValidBits
  /-- `S.DECK` (R26). -/
  deck : Memory
  /-- `S.LEN`, 16 bits (R26). -/
  len : BitVec 16
  /-- `S.FAULT`, 4 bits (R27). -/
  fault : BitVec 4
  /-- `S.FINFO`, 64 bits (R27). -/
  finfo : DWord
  /-- The interface signals (R34). -/
  port : Port
  /-- What the host does next, in order. The model's own field. -/
  pending : List Event
  /-- How many times free values have been taken. The model's own field. -/
  freeCount : Nat
  deriving DecidableEq, Repr

/-- The reasons the machine could stop with a fault: none. Every fault of the spec is a response with a code, after
which the next command is accepted (spec/60_exceptions.md R180), so it is a next state. Log entry 19. -/
inductive Fault where
  deriving DecidableEq, Repr

/-- The reasons the model could refuse to go on. -/
inductive Refusal where
  /-- Raised by an arm of `exec` for an instruction that has no meaning yet (safe). No arm raises it: every
  instruction has its meaning. -/
  | notModelled (mnemonic : String)
  deriving DecidableEq, Repr

/-- The machine right after reset (R36): VALID, LEN, FAULT and FINFO are 0 as the spec says; the deck has nothing
written; the generator fields, which R36 leaves unspecified, hold 0 (DESIGN CHOICE, log entry 3), and so do the
interface signals (DESIGN CHOICE, log entry 5); the host has nothing pending (log entry 2). -/
def State.reset : State :=
  { xsX := 0#32
    mt := Vector.replicate 624 0#32
    mtIndex := 0
    pcgState := 0#64
    ws := Vector.replicate 16 0#32
    wellIndex := 0
    valid := { xs := false, mt := false, pcg := false, well := false }
    deck := []
    len := 0#16
    fault := 0#4
    finfo := 0#64
    port := { cmd := 0#32, wdata := 0#64, dfltSeed := 0#32, rdata := 0#64, faultOut := 0#4 }
    pending := []
    freeCount := 0 }

end Sys2Proof.Machine
end

