-- ==== Sys2Proof/Machine/Operands.lean ====
section
/-!
DEFINITION. The operand forms and the result forms of a command (spec/30_encoding.md R72, R73): which bits of
`wdata` a command reads, the immediate as a number, and how a Sample, a float or an element goes to `rdata`.
-/
namespace Sys2Proof.Machine

/-- The seed of SEED.XS, SEED.MT and SEED.WELL: `wdata[31:0]`, the upper half ignored (R72, D8). -/
def State.seed32 (s : State) : Word := s.port.wdata.extractLsb' 0 32

/-- The seed of SEED.PCG: all 64 bits of `wdata` (R72, spec/42_pcg32.md R131). -/
def State.seed64 (s : State) : DWord := s.port.wdata

/-- The element DKWR writes: `wdata[31:0]`, the upper half ignored (R72, spec/44_shuffle.md R151). -/
def State.elementOperand (s : State) : Word := s.port.wdata.extractLsb' 0 32

/-- `draw32()`: the value of the input `dflt_seed` for this command (spec/00_scope.md R7). -/
def State.draw32 (s : State) : Word := s.port.dfltSeed

/-- The seed SEED.XS uses: the truncated operand, or `dflt_seed` when that is zero (spec/40_xorshift32.md R100). -/
def State.xsSeed (s : State) : Word := if s.seed32 = 0#32 then s.draw32 else s.seed32

/-- The immediate as the unsigned number it is (R73). -/
def immNat (imm : BitVec 16) : Nat := imm.toNat

/-- `zext_64` of a word (R72). -/
def zext64 (w : Word) : DWord := w.setWidth 64

/-- The info value of the faults with codes 1 to 4: the command word, zero-extended (spec/60_exceptions.md R181). -/
def State.cmdInfo (s : State) : DWord := zext64 s.port.cmd

/-- The divisor of a unit's normalisation (spec/00_scope.md R5, spec/44_shuffle.md R153). -/
def unitDiv : GenUnit → Nat
  | .xs => Config.xsDiv
  | .mt => Config.u32Div
  | .pcg => Config.u32Div
  | .well => Config.u32Div

end Sys2Proof.Machine
end

