-- ==== Sys2Proof/Machine/Flags.lean ====
section
/-!
DEFINITION. The flags of the CORE: the VALID bits (spec/10_state.md R25), the fault codes (spec/60_exceptions.md
R181) and the STATUS register made of them (spec/10_state.md R28). There are no arithmetic condition codes.
-/
namespace Sys2Proof.Machine

/-- `S.VALID[a]` (R25). -/
def ValidBits.get (v : ValidBits) : GenUnit → Bool
  | .xs => v.xs
  | .mt => v.mt
  | .pcg => v.pcg
  | .well => v.well

/-- `S.VALID` with `VALID[a]` set to 1 (R25). -/
def ValidBits.construct (v : ValidBits) : GenUnit → ValidBits
  | .xs => { v with xs := true }
  | .mt => { v with mt := true }
  | .pcg => { v with pcg := true }
  | .well => { v with well := true }

/-- `S.VALID` with no unit constructed (R36). -/
def ValidBits.none : ValidBits := { xs := false, mt := false, pcg := false, well := false }

/-- The causes of a fault (R181). -/
inductive FaultCode where
  /-- Code 1: the word matches no instruction, or RDCR names register > 2 (R182). -/
  | illegalCmd
  /-- Code 2: DKLEN with a length above DECK_MAX (R183). -/
  | badLength
  /-- Code 3: DKWR or DKRD at or above LEN (R184). -/
  | badIndex
  /-- Code 4: NEXTU, NEXTF or SHUF of a unit not constructed (R185). -/
  | notConstructed
  /-- Code 5: a swap index above the element being placed (R186). -/
  | indexRange
  deriving DecidableEq, Repr

/-- The 4-bit code of a cause (R181). -/
def FaultCode.code : FaultCode → BitVec 4
  | .illegalCmd => 1#4
  | .badLength => 2#4
  | .badIndex => 3#4
  | .notConstructed => 4#4
  | .indexRange => 5#4

/-- The info value of INDEX_RANGE: `j * 2^16 + i`, bits 15:0 = i, bits 47:16 = j, bits 63:48 = 0 (R181, R186). -/
def indexRangeInfo (j i : Nat) : DWord := BitVec.ofNat 64 (j * 2 ^ 16 + i)

/-- CR0 `STATUS`: VALID in bits 3:0, FAULT in bits 7:4, the rest zero (R28, spec/45_system.md R170). -/
def State.status (s : State) : DWord :=
  (0#56) ++ s.fault ++ BitVec.ofBool s.valid.well ++ BitVec.ofBool s.valid.pcg ++ BitVec.ofBool s.valid.mt
    ++ BitVec.ofBool s.valid.xs

end Sys2Proof.Machine
end

