-- ==== Sys2Proof/Machine/Ops.lean ====
section
/-!
DEFINITION. The named operations over the deck memory and the state: element read and write (spec/20_memory.md
R55), the response, RAISING A FAULT (spec/60_exceptions.md R190) and the reset state (spec/10_state.md R36). There
is no return from a fault: R191 has no handler and no return instruction, so none stands here.
-/
namespace Sys2Proof.Machine

/-! ## The deck memory as data -/

/-- The element listed at index k, if one was written since reset. -/
def Memory.lookup : Memory → Nat → Option Word
  | [], _ => none
  | c :: m, k => if c.1 = k then some c.2 else Memory.lookup m k

/-- The memory with element k holding v, indexes kept rising. -/
def Memory.write : Memory → Nat → Word → Memory
  | [], k, v => [(k, v)]
  | c :: m, k, v =>
    if k < c.1 then (k, v) :: c :: m
    else if k = c.1 then (k, v) :: m
    else c :: Memory.write m k v

/-- The canonical form: indexes strictly rising, every index inside the deck space (R54). -/
abbrev Memory.wf (m : Memory) : Prop :=
  m.Pairwise (fun a b => a.1 < b.1) ∧ ∀ c ∈ m, c.1 < Config.deckMax

/-! ## Writing one unit's state -/

/-- `S.xs_x <- x`. -/
def State.setXs (s : State) (x : Word) : State := { s with xsX := x }

/-- `S.MT <- a`, `S.mt_index <- k`. -/
def State.setMt (s : State) (a : MtArray) (k : Fin 625) : State := { s with mt := a, mtIndex := k }

/-- `S.pcg_state <- x`. -/
def State.setPcg (s : State) (x : DWord) : State := { s with pcgState := x }

/-- `S.WS <- a`, `S.well_index <- k`. -/
def State.setWell (s : State) (a : WellArray) (k : Fin 16) : State := { s with ws := a, wellIndex := k }

/-- `S.VALID[a] <- 1` (R25). -/
def State.construct (s : State) (a : GenUnit) : State := { s with valid := s.valid.construct a }

/-- `S.LEN <- n`; no element changes (spec/44_shuffle.md R150). -/
def State.setLen (s : State) (n : BitVec 16) : State := { s with len := n }

/-! ## Deck access (R55) -/

/-- The state after one free value has been taken. -/
def State.takeFree (s : State) : State := { s with freeCount := s.freeCount + 1 }

/-- `MemRead(k, 1)` (R55): the element, and the state after the read. An element not written since reset reads as
any value, each time afresh (U2): a free value. Log entry 7. -/
def State.readElement (s : State) (k : Nat) : Word × State :=
  match Memory.lookup s.deck k with
  | some v => (v, s)
  | none => (Config.freeElement s.freeCount, s.takeFree)

/-- `MemWrite(k, 1, v)` (R55). -/
def State.writeElement (s : State) (k : Nat) (v : Word) : State := { s with deck := Memory.write s.deck k v }

/-- The swap of SHUF (spec/44_shuffle.md R156): read i, read j, write i, write j, in that order (R57). -/
def State.swapElements (s : State) (i j : Nat) : State :=
  let ei := s.readElement i
  let ej := ei.2.readElement j
  (ej.2.writeElement i ej.1).writeElement j ei.1

/-! ## The end of a command -/

/-- `respond(d)`: the command ends with `rdata` = d and `fault` = 0 (spec/00_scope.md R7). -/
def State.respond (s : State) (d : DWord) : State :=
  { s with port := { s.port with rdata := d, faultOut := 0#4 } }

/-- The sticky record of the first fault since reset (spec/10_state.md R27, R190). -/
def State.recordFault (s : State) (f : FaultCode) (info : DWord) : State :=
  if s.fault = 0#4 then { s with fault := f.code, finfo := info } else s

/-- `raise F(info)` (R190): the fault is recorded if it is the first since reset, and the command ends with
`rdata` = info and `fault` = F. Nothing else happens: no mode, mask, stack or control transfer exists. -/
def State.raise (s : State) (f : FaultCode) (info : DWord) : State :=
  let r := s.recordFault f info
  { r with port := { r.port with rdata := info, faultOut := f.code } }

/-- `raise F(zext_64(cmd))`: the faults with codes 1 to 4 (R181). -/
def State.raiseCmd (s : State) (f : FaultCode) : State := s.raise f s.cmdInfo

/-! ## Reset -/

/-- The reset state entered from a running machine (R36, spec/70_reset_and_hazards.md R200): VALID, LEN, FAULT and
FINFO are 0; no deck element counts as written; the generator fields are unspecified, so free values. The host's
side (`port`, `pending`) is not the CORE's state and stays. Log entry 4. -/
def State.enterReset (s : State) : State :=
  { xsX := Config.freeXs s.freeCount
    mt := Vector.ofFn (Config.freeMt s.freeCount)
    mtIndex := Config.freeMtIndex s.freeCount
    pcgState := Config.freePcg s.freeCount
    ws := Vector.ofFn (Config.freeWs s.freeCount)
    wellIndex := Config.freeWellIndex s.freeCount
    valid := ValidBits.none
    deck := []
    len := 0#16
    fault := 0#4
    finfo := 0#64
    port := s.port
    pending := s.pending
    freeCount := s.freeCount + 1 }

/-- `hard_reset` (R200): the reset state; no response the host may rely on, so `rdata` and `fault` are free values
(U8). Log entry 12. -/
def State.hardReset (s : State) : State :=
  let r := s.enterReset
  { r with port := { r.port with rdata := Config.freeRdata s.freeCount, faultOut := Config.freeFaultOut s.freeCount } }

/-! ## The start of a command -/

/-- The transaction's inputs on the ports, and the host's list without it (spec/10_state.md R34). -/
def State.present (s : State) (t : Transaction) (rest : List Event) : State :=
  { s with
    port := { s.port with cmd := t.cmd, wdata := t.wdata, dfltSeed := t.dfltSeed }
    pending := rest }

/-- The host's list without its first entry. -/
def State.setPending (s : State) (rest : List Event) : State := { s with pending := rest }

end Sys2Proof.Machine
end

