-- ==== Sys2Proof/Machine/Deck.lean ====
section
/-!
DEFINITION. The meanings of the deck commands DKLEN, DKWR and DKRD (spec/44_shuffle.md R150 to R152).
-/
namespace Sys2Proof.Machine

/-- DKLEN n (R150): BAD_LENGTH above DECK_MAX, else the new length; no element changes. -/
def execDklen (n : BitVec 16) (s : State) : Host.Outcome State Fault Refusal :=
  .next (if Config.deckMax < immNat n then s.raiseCmd .badLength else (s.setLen n).respond 0#64)

/-- DKWR k (R151): BAD_INDEX at or above LEN, else element k takes `wdata[31:0]`. -/
def execDkwr (k : BitVec 16) (s : State) : Host.Outcome State Fault Refusal :=
  .next (if s.len.toNat ≤ immNat k then s.raiseCmd .badIndex
    else (s.writeElement (immNat k) s.elementOperand).respond 0#64)

/-- DKRD k (R152): BAD_INDEX at or above LEN, else element k zero-extended. -/
def execDkrd (k : BitVec 16) (s : State) : Host.Outcome State Fault Refusal :=
  .next (if s.len.toNat ≤ immNat k then s.raiseCmd .badIndex
    else
      let r := s.readElement (immNat k)
      r.2.respond (zext64 r.1))

end Sys2Proof.Machine
end

