-- ==== Sys2Proof/Machine/Generators.lean ====
section
/-!
DEFINITION. The four generation steps as functions of a unit's own state: Xorshift32 (spec/40_xorshift32.md R101),
the seed expansion, twist, tempering and draw of the Mersenne Twister (spec/41_mt19937.md R110, R112 to R114), PCG32
(spec/42_pcg32.md R132) and WELL512a-simplified (spec/43_well512a.md R142).
-/
namespace Sys2Proof.Machine

/-! ## Xorshift32 -/

/-- `xs_step` (R101): left 13, right 17, left 5, each line from the result of the line before it. -/
def xsStep (x : Word) : Word :=
  let a := x ^^^ (x <<< 13)
  let b := a ^^^ (a >>> 17)
  b ^^^ (b <<< 5)

/-! ## Seed expansion, shared by MT and WELL -/

/-- Word i of `lcg_expand(s, n)` (R110): it depends only on word i-1 and i. -/
def lcgWord (s : Word) : Nat → Word
  | 0 => s
  | i + 1 =>
    let p := lcgWord s i
    Config.lcgMult * (p ^^^ (p >>> 30)) + BitVec.ofNat 32 (i + 1)

/-- `lcg_expand(s, n)` (R110). -/
def lcgExpand (s : Word) (n : Nat) : Vector Word n := Vector.ofFn (fun i => lcgWord s i.val)

/-! ## Mersenne Twister -/

/-- The new word i of one iteration of the twist (R112); indexes wrap modulo 624. -/
def mtTwistWord (v : MtArray) (i : Fin 624) : Word :=
  let y := (v[i] &&& 0x80000000#32) ||| (v[i + 1] &&& 0x7FFFFFFF#32)
  let w := v[i + 397] ^^^ (y >>> 1)
  if y.getLsbD 0 then w ^^^ Config.mtMatrix else w

/-- The array after the iterations 0, 1, ..., n-1 of the twist, in place and ascending (R112, D22). -/
def mtTwistUpTo (v : MtArray) : Nat → MtArray
  | 0 => v
  | n + 1 =>
    let u := mtTwistUpTo v n
    if h : n < 624 then u.set n (mtTwistWord u ⟨n, h⟩) h else u

/-- `mt_twist` on the array (R112): all 624 iterations. -/
def mtTwist (v : MtArray) : MtArray := mtTwistUpTo v 624

/-- `mt_temper` (R113). -/
def mtTemper (y : Word) : Word :=
  let a := y ^^^ (y >>> 11)
  let b := a ^^^ ((a <<< 7) &&& Config.mtTmaskB)
  let c := b ^^^ ((b <<< 15) &&& Config.mtTmaskC)
  c ^^^ (c >>> 18)

/-- `mt_draw` (R114): the Sample, the array and the cursor after one draw. The cursor 624 means that the draw
twists first. -/
def mtDraw (v : MtArray) (k : Fin 625) : Word × MtArray × Fin 625 :=
  if h : k.val < 624 then (mtTemper (v[k.val]'h), v, ⟨k.val + 1, by omega⟩)
  else
    let u := mtTwist v
    (mtTemper u[0], u, 1)

/-! ## PCG32 -/

/-- `ror32` (spec/00_scope.md R8): rotate right by r, 0 <= r <= 31. -/
def ror32 (v : Word) (r : Nat) : Word := (v >>> r) ||| (v <<< ((32 - r) % 32))

/-- The state update of `pcg_draw` (R132): `old * PCG_MULT + PCG_INC`, wrapping. The constants stand first, so that
checking a proof never counts down from them. -/
def pcgNext (old : DWord) : DWord := Config.pcgInc + Config.pcgMult * old

/-- The output of `pcg_draw` (R132), computed from the state before the update. -/
def pcgOutput (old : DWord) : Word :=
  let xs : Word := (((old >>> 18) ^^^ old) >>> 27).setWidth 32
  ror32 xs (old >>> 59).toNat

/-! ## WELL512a-simplified -/

/-- The word `well_draw` writes at the cursor k (R142); indexes wrap modulo 16. -/
def wellNewWord (v : WellArray) (k : Fin 16) : Word :=
  let y := v[k]
  let w := v[k + 15] ^^^ (y >>> 1)
  if y.getLsbD 0 then w ^^^ Config.wellMatrix else w

/-- `well_draw` (R142): the Sample, which is the word at the NEW cursor (90_conflicts C2), the array and the
cursor after one draw. -/
def wellDraw (v : WellArray) (k : Fin 16) : Word × WellArray × Fin 16 :=
  let u := v.set k.val (wellNewWord v k) k.isLt
  (u[k + 1], u, k + 1)

end Sys2Proof.Machine
end

