-- ==== Sys2Proof/Machine/Draw.lean ====
section
/-!
DEFINITION. One draw of a unit on the state, and what the NEXTU and NEXTF of every unit share: the check of the
VALID bit, exactly one draw, the response (spec/30_encoding.md R78; spec/44_shuffle.md R153).
-/
namespace Sys2Proof.Machine

/-- A draw of unit XS: the Sample is the new state word (spec/40_xorshift32.md R101). -/
def State.drawXs (s : State) : Word × State := (xsStep s.xsX, s.setXs (xsStep s.xsX))

/-- A draw of unit MT (spec/41_mt19937.md R114). -/
def State.drawMt (s : State) : Word × State :=
  let d := mtDraw s.mt s.mtIndex
  (d.1, s.setMt d.2.1 d.2.2)

/-- A draw of unit PCG (spec/42_pcg32.md R132). -/
def State.drawPcg (s : State) : Word × State := (pcgOutput s.pcgState, s.setPcg (pcgNext s.pcgState))

/-- A draw of unit WELL (spec/43_well512a.md R142). -/
def State.drawWell (s : State) : Word × State :=
  let d := wellDraw s.ws s.wellIndex
  (d.1, s.setWell d.2.1 d.2.2)

/-- One draw of unit a: the Sample and the state after it. -/
def State.draw (s : State) : GenUnit → Word × State
  | .xs => s.drawXs
  | .mt => s.drawMt
  | .pcg => s.drawPcg
  | .well => s.drawWell

/-- `draw_float(a)` (R153): one draw, as the rational value of the float the unit's NEXTF would return. -/
def State.drawFloat (s : State) (a : GenUnit) : Rat × State :=
  let d := s.draw a
  (normDiv d.1 (unitDiv a), d.2)

/-- NEXTU of unit a: NOT_CONSTRUCTED, or one draw and the zero-extended Sample. -/
def State.nextWord (s : State) (a : GenUnit) : State :=
  if s.valid.get a then
    let d := s.draw a
    d.2.respond (zext64 d.1)
  else s.raiseCmd .notConstructed

/-- NEXTF of unit a: NOT_CONSTRUCTED, or one draw and the float's 64-bit pattern. -/
def State.nextFloat (s : State) (a : GenUnit) : State :=
  if s.valid.get a then
    let d := s.drawFloat a
    d.2.respond (f64bits d.1)
  else s.raiseCmd .notConstructed

end Sys2Proof.Machine
end

