-- ==== Sys2Proof/Machine/Mersenne.lean ====
section
/-!
DEFINITION. The meanings of SEED.MT, NEXTU.MT and NEXTF.MT (spec/41_mt19937.md).
-/
namespace Sys2Proof.Machine

/-- SEED.MT (R111): the array is the expanded seed and the cursor starts at 0 (90_conflicts C6); the unit is constructed. -/
def execSeedMt (s : State) : Host.Outcome State Fault Refusal :=
  .next (((s.setMt (lcgExpand s.seed32 624) 0).construct .mt).respond 0#64)

/-- NEXTU.MT (R115). -/
def execNextuMt (s : State) : Host.Outcome State Fault Refusal := .next (s.nextWord .mt)

/-- NEXTF.MT (R116). -/
def execNextfMt (s : State) : Host.Outcome State Fault Refusal := .next (s.nextFloat .mt)

end Sys2Proof.Machine
end

