-- ==== Sys2Proof/Machine/Pcg.lean ====
section
/-!
DEFINITION. The meanings of SEED.PCG, NEXTU.PCG and NEXTF.PCG (spec/42_pcg32.md).
-/
namespace Sys2Proof.Machine

/-- SEED.PCG (R131): the state is the seed itself, all 64 bits; the unit is constructed. -/
def execSeedPcg (s : State) : Host.Outcome State Fault Refusal :=
  .next (((s.setPcg s.seed64).construct .pcg).respond 0#64)

/-- NEXTU.PCG (R133). -/
def execNextuPcg (s : State) : Host.Outcome State Fault Refusal := .next (s.nextWord .pcg)

/-- NEXTF.PCG (R134). -/
def execNextfPcg (s : State) : Host.Outcome State Fault Refusal := .next (s.nextFloat .pcg)

end Sys2Proof.Machine
end

