-- ==== Sys2Proof/Machine/Shuffle.lean ====
section
/-!
DEFINITION. The Fisher-Yates shuffle engine and the meanings of SHUF.XS, SHUF.MT, SHUF.PCG and SHUF.WELL
(spec/44_shuffle.md R153 to R163).
-/
namespace Sys2Proof.Machine

/-- The loop of `shuffle(a)` for the indexes i, i-1, ..., 1 (R156): one draw, the swap index, INDEX_RANGE if it is
beyond i, else the swap. The draws are consecutive words of the unit's one stream (R163). -/
def State.shuffleFrom (a : GenUnit) : Nat → State → State
  | 0, s => s.respond 0#64
  | i + 1, s =>
    let d := s.drawFloat a
    let j := shufIndex d.1 (i + 2)
    if i + 1 < j then d.2.raise .indexRange (indexRangeInfo j (i + 1))
    else State.shuffleFrom a i (d.2.swapElements (i + 1) j)

/-- `shuffle(a)` (R156): the validity check comes before the length check (D27); a deck of length 0 or 1 is a
no-op (R162). -/
def State.shuffle (s : State) (a : GenUnit) : State :=
  if s.valid.get a then
    if s.len.toNat ≤ 1 then s.respond 0#64
    else State.shuffleFrom a (s.len.toNat - 1) s
  else s.raiseCmd .notConstructed

/-- SHUF.XS (R157). -/
def execShufXs (s : State) : Host.Outcome State Fault Refusal := .next (s.shuffle .xs)

/-- SHUF.MT (R158). -/
def execShufMt (s : State) : Host.Outcome State Fault Refusal := .next (s.shuffle .mt)

/-- SHUF.PCG (R159). -/
def execShufPcg (s : State) : Host.Outcome State Fault Refusal := .next (s.shuffle .pcg)

/-- SHUF.WELL (R160). -/
def execShufWell (s : State) : Host.Outcome State Fault Refusal := .next (s.shuffle .well)

end Sys2Proof.Machine
end

