-- ==== Sys2Proof/Machine/System.lean ====
section
/-!
DEFINITION. The meanings of the system commands RDCR and RESET (spec/45_system.md R170, R171).
-/
namespace Sys2Proof.Machine

/-- The 64 bits of a control register that exists (spec/10_state.md R28 to R30). -/
def State.controlRegister (s : State) (r : Nat) : Option DWord :=
  match r with
  | 0 => some s.status
  | 1 => some (s.len.setWidth 64)
  | 2 => some s.finfo
  | _ => none

/-- RDCR r (R170): ILLEGAL_CMD for a register that does not exist, else its 64 bits; no state changes. -/
def execRdcr (r : BitVec 16) (s : State) : Host.Outcome State Fault Refusal :=
  .next (match s.controlRegister (immNat r) with
    | some d => s.respond d
    | none => s.raiseCmd .illegalCmd)

/-- RESET (R171): the reset state, response 0. -/
def execReset (s : State) : Host.Outcome State Fault Refusal := .next (s.enterReset.respond 0#64)

end Sys2Proof.Machine
end

