-- ==== Sys2Proof/Machine/Well.lean ====
section
/-!
DEFINITION. The meanings of SEED.WELL, NEXTU.WELL and NEXTF.WELL (spec/43_well512a.md).
-/
namespace Sys2Proof.Machine

/-- SEED.WELL (R141): the array is the expanded seed and the cursor starts at 0; the unit is constructed. -/
def execSeedWell (s : State) : Host.Outcome State Fault Refusal :=
  .next (((s.setWell (lcgExpand s.seed32 16) 0).construct .well).respond 0#64)

/-- NEXTU.WELL (R143). -/
def execNextuWell (s : State) : Host.Outcome State Fault Refusal := .next (s.nextWord .well)

/-- NEXTF.WELL (R144). -/
def execNextfWell (s : State) : Host.Outcome State Fault Refusal := .next (s.nextFloat .well)

end Sys2Proof.Machine
end

