-- ==== Sys2Proof/Machine/Xorshift.lean ====
section
/-!
DEFINITION. The meanings of SEED.XS, NEXTU.XS and NEXTF.XS (spec/40_xorshift32.md).
-/
namespace Sys2Proof.Machine

/-- SEED.XS (R100): the state is the truncated seed, or `dflt_seed` when that is zero; the unit is constructed. -/
def execSeedXs (s : State) : Host.Outcome State Fault Refusal :=
  .next (((s.setXs s.xsSeed).construct .xs).respond 0#64)

/-- NEXTU.XS (R102). -/
def execNextuXs (s : State) : Host.Outcome State Fault Refusal := .next (s.nextWord .xs)

/-- NEXTF.XS (R103). -/
def execNextfXs (s : State) : Host.Outcome State Fault Refusal := .next (s.nextFloat .xs)

end Sys2Proof.Machine
end

