-- ==== Sys2Proof/Machine/Dispatch.lean ====
section
/-!
DEFINITION. One arm per instruction: exec calls the instruction's meaning.
-/
namespace Sys2Proof.Machine

def exec (i : Instr) (s : State) : Host.Outcome State Fault Refusal :=
  match i with
  | .seedXs => Sys2Proof.Machine.execSeedXs s
  | .seedMt => Sys2Proof.Machine.execSeedMt s
  | .seedPcg => Sys2Proof.Machine.execSeedPcg s
  | .seedWell => Sys2Proof.Machine.execSeedWell s
  | .nextuXs => Sys2Proof.Machine.execNextuXs s
  | .nextuMt => Sys2Proof.Machine.execNextuMt s
  | .nextuPcg => Sys2Proof.Machine.execNextuPcg s
  | .nextuWell => Sys2Proof.Machine.execNextuWell s
  | .nextfXs => Sys2Proof.Machine.execNextfXs s
  | .nextfMt => Sys2Proof.Machine.execNextfMt s
  | .nextfPcg => Sys2Proof.Machine.execNextfPcg s
  | .nextfWell => Sys2Proof.Machine.execNextfWell s
  | .shufXs => Sys2Proof.Machine.execShufXs s
  | .shufMt => Sys2Proof.Machine.execShufMt s
  | .shufPcg => Sys2Proof.Machine.execShufPcg s
  | .shufWell => Sys2Proof.Machine.execShufWell s
  | .dklen n => Sys2Proof.Machine.execDklen n s
  | .dkwr k => Sys2Proof.Machine.execDkwr k s
  | .dkrd k => Sys2Proof.Machine.execDkrd k s
  | .rdcr r => Sys2Proof.Machine.execRdcr r s
  | .reset => Sys2Proof.Machine.execReset s

end Sys2Proof.Machine
end

