-- ==== Sys2Proof/WellFormed.lean ====
section
/-!
DEFINITION. Which instruction terms stand for a legal command. Every field of an instruction is as wide as its
field of the word, so the one check left is that RDCR names a register that exists (spec/30_encoding.md R76,
spec/10_state.md R30).
-/
namespace Sys2Proof

/-- `i` is the meaning of some legal command word. -/
def Instr.wf : Instr → Bool
  | .seedXs => true
  | .seedMt => true
  | .seedPcg => true
  | .seedWell => true
  | .nextuXs => true
  | .nextuMt => true
  | .nextuPcg => true
  | .nextuWell => true
  | .nextfXs => true
  | .nextfMt => true
  | .nextfPcg => true
  | .nextfWell => true
  | .shufXs => true
  | .shufMt => true
  | .shufPcg => true
  | .shufWell => true
  | .dklen _ => true
  | .dkwr _ => true
  | .dkrd _ => true
  | .rdcr r => decide (r.toNat ≤ 2)
  | .reset => true

end Sys2Proof
end

