-- ==== Sys2Proof/Decode.lean ====
section
/-!
DEFINITION. The decoder and the encoder of format C (spec/30_encoding.md R70 to R76). The decoder is total on
32-bit words and rejects every illegal word by the name of the condition of R76 that it meets.
-/
namespace Sys2Proof

/-- Why a word is illegal (R76). Each is answered by the command fault ILLEGAL_CMD, a next state. -/
inductive Reject where
  /-- `opc` is 0x0 or 0xA to 0xF. -/
  | reservedOpcode
  /-- `zero` (bits 25:16) is not 0. -/
  | zeroFieldSet
  /-- `alg` is not 0 in a command that addresses no unit. -/
  | unitFieldSet
  /-- `imm` is not 0 in a command that takes no immediate. -/
  | immediateSet
  /-- RDCR of a register above 2. -/
  | noSuchRegister
  deriving DecidableEq, Repr

/-! ## The fields of format C (R71, R73) -/

/-- `opc`, bits 31:28. -/
def cmdOpc (c : Word) : BitVec 4 := c.extractLsb' 28 4

/-- `alg`, bits 27:26. -/
def cmdAlg (c : Word) : BitVec 2 := c.extractLsb' 26 2

/-- `zero`, bits 25:16. -/
def cmdZero (c : Word) : BitVec 10 := c.extractLsb' 16 10

/-- `imm`, bits 15:0, unsigned and unscaled. -/
def cmdImm (c : Word) : BitVec 16 := c.extractLsb' 0 16

/-- The unit an `alg` field names (R75): all four values are assigned. -/
def unitOfAlg (a : BitVec 2) : GenUnit :=
  match a.toNat with
  | 0 => .xs
  | 1 => .mt
  | 2 => .pcg
  | _ => .well

/-! ## The four generator operations, by unit -/

/-- SEED of a unit. -/
def seedOf : GenUnit → Instr
  | .xs => .seedXs
  | .mt => .seedMt
  | .pcg => .seedPcg
  | .well => .seedWell

/-- NEXTU of a unit. -/
def nextuOf : GenUnit → Instr
  | .xs => .nextuXs
  | .mt => .nextuMt
  | .pcg => .nextuPcg
  | .well => .nextuWell

/-- NEXTF of a unit. -/
def nextfOf : GenUnit → Instr
  | .xs => .nextfXs
  | .mt => .nextfMt
  | .pcg => .nextfPcg
  | .well => .nextfWell

/-- SHUF of a unit. -/
def shufOf : GenUnit → Instr
  | .xs => .shufXs
  | .mt => .shufMt
  | .pcg => .shufPcg
  | .well => .shufWell

/-! ## Decoding (R74, R76) -/

/-- A command that uses `alg` and no immediate. -/
def decodeUnit (c : Word) (f : GenUnit → Instr) : Except Reject Instr :=
  if cmdImm c ≠ 0#16 then .error .immediateSet else .ok (f (unitOfAlg (cmdAlg c)))

/-- A command that uses the immediate and no unit. -/
def decodeImm (c : Word) (f : BitVec 16 → Instr) : Except Reject Instr :=
  if cmdAlg c ≠ 0#2 then .error .unitFieldSet else .ok (f (cmdImm c))

/-- RDCR: the register number is part of the encoding (R76, D30). -/
def decodeRdcr (c : Word) : Except Reject Instr :=
  if cmdAlg c ≠ 0#2 then .error .unitFieldSet
  else if 2 < (cmdImm c).toNat then .error .noSuchRegister
  else .ok (.rdcr (cmdImm c))

/-- RESET: neither a unit nor an immediate. -/
def decodeReset (c : Word) : Except Reject Instr :=
  if cmdAlg c ≠ 0#2 then .error .unitFieldSet
  else if cmdImm c ≠ 0#16 then .error .immediateSet
  else .ok .reset

/-- The instruction a command word stands for (R74), or the condition of R76 that makes it illegal. -/
def decode (c : Word) : Except Reject Instr :=
  if cmdZero c ≠ 0#10 then .error .zeroFieldSet
  else
    match (cmdOpc c).toNat with
    | 1 => decodeUnit c seedOf
    | 2 => decodeUnit c nextuOf
    | 3 => decodeUnit c nextfOf
    | 4 => decodeUnit c shufOf
    | 5 => decodeImm c .dklen
    | 6 => decodeImm c .dkwr
    | 7 => decodeImm c .dkrd
    | 8 => decodeRdcr c
    | 9 => decodeReset c
    | _ => .error .reservedOpcode

/-- The instruction the decoder reads from a table row's bits: a command is one 32-bit word, so the word's
numbering is the table's own, and there is no later word (R70). -/
def decodeTableWord (_nbits w : Nat) : Option Instr :=
  match decode (BitVec.ofNat 32 w) with
  | .ok i => some i
  | .error _ => none

/-! ## Encoding (R71, R74) -/

/-- The word with these fields, `zero` = 0 (R71). -/
def packC (opc : BitVec 4) (alg : BitVec 2) (imm : BitVec 16) : Word :=
  opc ++ alg ++ (0#10) ++ imm

/-- The command word of an instruction (R74, R79). -/
def encode : Instr → Word
  | .seedXs => packC 0x1 0 0
  | .seedMt => packC 0x1 1 0
  | .seedPcg => packC 0x1 2 0
  | .seedWell => packC 0x1 3 0
  | .nextuXs => packC 0x2 0 0
  | .nextuMt => packC 0x2 1 0
  | .nextuPcg => packC 0x2 2 0
  | .nextuWell => packC 0x2 3 0
  | .nextfXs => packC 0x3 0 0
  | .nextfMt => packC 0x3 1 0
  | .nextfPcg => packC 0x3 2 0
  | .nextfWell => packC 0x3 3 0
  | .shufXs => packC 0x4 0 0
  | .shufMt => packC 0x4 1 0
  | .shufPcg => packC 0x4 2 0
  | .shufWell => packC 0x4 3 0
  | .dklen n => packC 0x5 0 n
  | .dkwr k => packC 0x6 0 k
  | .dkrd k => packC 0x7 0 k
  | .rdcr r => packC 0x8 0 r
  | .reset => packC 0x9 0 0

/-! ## The table of R74, row by row: a word c is the instruction of a row when (c AND mask) = match -/

/-- `match` of the instruction's row (R74). -/
def Instr.rowMatch : Instr → Word
  | .seedXs => 0x10000000#32
  | .seedMt => 0x14000000#32
  | .seedPcg => 0x18000000#32
  | .seedWell => 0x1C000000#32
  | .nextuXs => 0x20000000#32
  | .nextuMt => 0x24000000#32
  | .nextuPcg => 0x28000000#32
  | .nextuWell => 0x2C000000#32
  | .nextfXs => 0x30000000#32
  | .nextfMt => 0x34000000#32
  | .nextfPcg => 0x38000000#32
  | .nextfWell => 0x3C000000#32
  | .shufXs => 0x40000000#32
  | .shufMt => 0x44000000#32
  | .shufPcg => 0x48000000#32
  | .shufWell => 0x4C000000#32
  | .dklen _ => 0x50000000#32
  | .dkwr _ => 0x60000000#32
  | .dkrd _ => 0x70000000#32
  | .rdcr _ => 0x80000000#32
  | .reset => 0x90000000#32

/-- `mask` of the instruction's row (R74). -/
def Instr.rowMask : Instr → Word
  | .seedXs => 0xFFFFFFFF#32
  | .seedMt => 0xFFFFFFFF#32
  | .seedPcg => 0xFFFFFFFF#32
  | .seedWell => 0xFFFFFFFF#32
  | .nextuXs => 0xFFFFFFFF#32
  | .nextuMt => 0xFFFFFFFF#32
  | .nextuPcg => 0xFFFFFFFF#32
  | .nextuWell => 0xFFFFFFFF#32
  | .nextfXs => 0xFFFFFFFF#32
  | .nextfMt => 0xFFFFFFFF#32
  | .nextfPcg => 0xFFFFFFFF#32
  | .nextfWell => 0xFFFFFFFF#32
  | .shufXs => 0xFFFFFFFF#32
  | .shufMt => 0xFFFFFFFF#32
  | .shufPcg => 0xFFFFFFFF#32
  | .shufWell => 0xFFFFFFFF#32
  | .dklen _ => 0xFFFF0000#32
  | .dkwr _ => 0xFFFF0000#32
  | .dkrd _ => 0xFFFF0000#32
  | .rdcr _ => 0xFFFF0000#32
  | .reset => 0xFFFFFFFF#32

end Sys2Proof
end

