-- ==== Sys2Proof/Machine/Fetch.lean ====
section
/-!
DEFINITION. What a step starts from: the host's next action (spec/10_state.md R34, spec/70_reset_and_hazards.md
R200) and the decoding of a presented command (spec/30_encoding.md R78, step 1). Log entries 1, 2, 12.
-/
namespace Sys2Proof.Machine

/-- What the host's next action comes to. -/
inductive Fetched where
  /-- A legal command: this instruction is performed on this state. -/
  | run (i : Instr) (s : State)
  /-- Nothing is performed; the step ends in this state. -/
  | done (s : State)
  deriving DecidableEq, Repr

/-- A presented command whose inputs stand on the ports: decoded, or answered with ILLEGAL_CMD (R76, R182). -/
def decodePresented (s : State) : Fetched :=
  match decode s.port.cmd with
  | .ok i => .run i s
  | .error _ => .done (s.raiseCmd .illegalCmd)

/-- The host's next action. With nothing pending the CORE waits and holds its state (R197, R201). A hard reset
during a command leaves the reset state, none of the command's effects (R200). -/
def fetch (s : State) : Fetched :=
  match s.pending with
  | [] => .done s
  | .command t :: rest => decodePresented (s.present t rest)
  | .hardReset :: rest => .done (s.setPending rest).hardReset
  | .aborted t :: rest => .done (s.present t rest).hardReset

/-- The state with this command word presented next, the other inputs as they stand on the ports. -/
def State.withCommand (s : State) (c : Word) : State :=
  s.setPending (.command { cmd := c, wdata := s.port.wdata, dfltSeed := s.port.dfltSeed } :: s.pending)

end Sys2Proof.Machine
end

