-- ==== Sys2Proof/Safety.lean ====
section
/-!
DEFINITION. The terms claims are stated in: the invariant of the state, the stream of a unit, the reference
Fisher-Yates permutation, and the relations between two runs.
-/
namespace Sys2Proof.Machine

/-! ## The invariant -/

/-- The fault record holds what some `raise` put there, or nothing (spec/60_exceptions.md R181, R190; U9): a code
of 0 to 5; info 0 beside code 0; a zero-extended command word beside the codes 1 to 4; `j * 2^16 + i` with `j > i`
and the top 16 bits zero beside code 5. -/
abbrev State.FaultRecordOk (s : State) : Prop :=
  s.fault.toNat ≤ 5 ∧
  (s.fault = 0#4 → s.finfo = 0#64) ∧
  (1 ≤ s.fault.toNat ∧ s.fault.toNat ≤ 4 → s.finfo.toNat < 2 ^ 32) ∧
  (s.fault.toNat = 5 → s.finfo.toNat < 2 ^ 48 ∧ s.finfo.toNat % 2 ^ 16 < s.finfo.toNat / 2 ^ 16)

/-- What holds of every state the CORE can be in: the deck memory is canonical and inside the deck space (R54),
LEN is at most DECK_MAX (R26), the fault record is one (R27). -/
abbrev State.Inv (s : State) : Prop :=
  Memory.wf s.deck ∧ s.len.toNat ≤ Config.deckMax ∧ s.FaultRecordOk

/-- No fault has been recorded since reset: STATUS.FAULT = 0 (R191). -/
abbrev State.noFaultRecorded (s : State) : Prop := s.fault = 0#4

/-- The state after a command that ends with fault code `code` and this info value, as R190 describes it: recorded
if it is the first fault since reset, and in any case answered. -/
def State.faulted (s : State) (code : BitVec 4) (info : DWord) : State :=
  { s with
    fault := if s.fault = 0#4 then code else s.fault
    finfo := if s.fault = 0#4 then info else s.finfo
    port := { s.port with rdata := info, faultOut := code } }

/-- The state after a command that completes with result d (R7, R72). -/
def State.completed (s : State) (d : DWord) : State :=
  { s with port := { s.port with rdata := d, faultOut := 0#4 } }

/-! ## The stream of a unit -/

/-- The state after n draws of unit a. -/
def State.drawN (a : GenUnit) : Nat → State → State
  | 0, s => s
  | n + 1, s => State.drawN a n (s.draw a).2

/-- The Sample that the draw after k others returns: word k of the unit's stream, counted from 0. -/
def State.sample (s : State) (a : GenUnit) (k : Nat) : Word := ((State.drawN a k s).draw a).1

/-- `mx(y)` of spec/43_well512a.md R145: the matrix constant if y is odd, else 0. -/
def wellMx (y : Word) : Word := if y.getLsbD 0 then Config.wellMatrix else 0#32

/-- `N[k]` of R145: the word that draw k+1 after SEED.WELL wrote, from the expansion words `E`. -/
def wellRewritten (E : Nat → Word) : Nat → Word
  | 0 => E 15 ^^^ (E 0 >>> 1) ^^^ wellMx (E 0)
  | k + 1 => wellRewritten E k ^^^ (E (k + 1) >>> 1) ^^^ wellMx (E (k + 1))

/-- The state with this deck memory and this free-value count: all that a swap can change. -/
def State.withDeck (s : State) (m : Memory) (n : Nat) : State := { s with deck := m, freeCount := n }

/-! ## The reference shuffle -/

/-- What the deck space holds, element by element; `none` where nothing was written since reset. -/
def State.view (s : State) (k : Nat) : Option Word := Memory.lookup s.deck k

/-- Every element of the live deck has been written since reset (spec/70_reset_and_hazards.md R203). -/
abbrev State.deckWritten (s : State) : Prop := ∀ k < s.len.toNat, (s.view k).isSome

/-- The swap of two positions of a sequence. -/
def swapView (f : Nat → Option Word) (i j : Nat) : Nat → Option Word := fun k =>
  if k = i then f j else if k = j then f i else f k

/-- The index `j` that SHUF.a computes at position i of a deck of the length LEN of s, begun in s: from the word
that is drawn after the LEN-1-i words for the positions above i (spec/44_shuffle.md R156, R163). -/
def State.swapIndex (s : State) (a : GenUnit) (i : Nat) : Nat :=
  shufIndex (normDiv (s.sample a (s.len.toNat - 1 - i)) (unitDiv a)) (i + 1)

/-- The sequence after the swaps at the n highest positions LEN-1, LEN-2, ... of the deck (R156). -/
def State.shuffledView (s : State) (a : GenUnit) : Nat → (Nat → Option Word)
  | 0 => s.view
  | n + 1 => swapView (s.shuffledView a n) (s.len.toNat - 1 - n) (s.swapIndex a (s.len.toNat - 1 - n))

/-- No word that SHUF.a would draw gives an index beyond the element being placed. -/
abbrev State.drawsInRange (s : State) (a : GenUnit) : Prop :=
  ∀ i, 1 ≤ i → i < s.len.toNat → s.swapIndex a i ≤ i

/-! ## Two states, two runs -/

/-- The state that answers command t: one step in which the host presents t and nothing else. -/
def State.answer (s : State) (t : Transaction) : State :=
  match step (s.setPending [.command t]) with
  | .next u => u
  | .fault _ => s
  | .refused _ => s

/-- The same state S of the CORE (R20) and the same free-value counter, whatever the ports hold. -/
def State.sameCore (s t : State) : Prop := { s with port := t.port, pending := t.pending } = t

/-- The same state but for the fields of units that are not constructed (spec/10_state.md R25, R37). -/
def State.sameButUnconstructed (s t : State) : Prop :=
  s.valid = t.valid ∧ s.deck = t.deck ∧ s.len = t.len ∧ s.fault = t.fault ∧ s.finfo = t.finfo ∧
  s.port = t.port ∧ s.pending = t.pending ∧ s.freeCount = t.freeCount ∧
  (s.valid.xs = true → s.xsX = t.xsX) ∧
  (s.valid.mt = true → s.mt = t.mt ∧ s.mtIndex = t.mtIndex) ∧
  (s.valid.pcg = true → s.pcgState = t.pcgState) ∧
  (s.valid.well = true → s.ws = t.ws ∧ s.wellIndex = t.wellIndex)

/-- One of the commands SEED, NEXTU, NEXTF of unit a. -/
def isUnitCommand (a : GenUnit) (i : Instr) : Prop := i = seedOf a ∨ i = nextuOf a ∨ i = nextfOf a

end Sys2Proof.Machine
end

