-- ==== Sys2Proof/Certificates/Slice0/Obligations.lean ====
section
/-!
DEFINITION. The statements for the provers. Each docstring names the rules of spec/ that it formalises. Where a
statement rests on a choice of the model, the docstring names the log entry.
-/
open Sys2Proof Sys2Proof.Machine

/-! ## Encoding and decoding -/

/-- R71, R74, R76: every well-formed instruction is read back from its own word, with every immediate. -/
def Obligations.DecodeOfEncodeIsTheInstruction : Prop :=
  ∀ i : Instr, i.wf = true → decode (encode i) = .ok i

/-- R74, R79: a word that decodes is the encoding of a well-formed instruction and lies in that instruction's row:
(c AND mask) = match. So each word has one meaning. -/
def Obligations.DecodedWordIsItsEncoding : Prop :=
  ∀ (c : Word) (i : Instr), decode c = .ok i →
    i.wf = true ∧ encode i = c ∧ c &&& i.rowMask = i.rowMatch

/-- R74: "A word c is the instruction of a row when (c AND mask) = match. No two rows overlap." A word in a row
decodes to an instruction of that row, but for RDCR of a register that does not exist (R76); a word in two rows
would show them to be the same row. -/
def Obligations.TableRowsDecodeAndDoNotOverlap : Prop :=
  (∀ (c : Word) (i : Instr), c &&& i.rowMask = i.rowMatch →
    (∃ j, decode c = .ok j ∧ j.rowMatch = i.rowMatch ∧ j.rowMask = i.rowMask) ∨
      (i.rowMatch = 0x80000000#32 ∧ 2 < (cmdImm c).toNat ∧ decode c = .error .noSuchRegister)) ∧
  (∀ (c : Word) (i j : Instr), c &&& i.rowMask = i.rowMatch → c &&& j.rowMask = j.rowMatch →
    i.rowMatch = j.rowMatch ∧ i.rowMask = j.rowMask)

/-- spec/95_test_vectors.md section 8, decode vectors, one word a family. -/
def Obligations.SpecWordsDecode : Prop :=
  decode 0x10000000#32 = .ok .seedXs ∧
  decode 0x24000000#32 = .ok .nextuMt ∧
  decode 0x38000000#32 = .ok .nextfPcg ∧
  decode 0x4C000000#32 = .ok .shufWell ∧
  decode 0x5000FFFF#32 = .ok (.dklen 0xFFFF#16) ∧
  decode 0x6000FFFF#32 = .ok (.dkwr 0xFFFF#16) ∧
  decode 0x70000004#32 = .ok (.dkrd 4#16) ∧
  decode 0x80000002#32 = .ok (.rdcr 2#16) ∧
  decode 0x90000000#32 = .ok .reset ∧
  decode 0x80000003#32 = .error .noSuchRegister

/-- R76, R182: a word is illegal exactly when one of the listed conditions on its fields holds, and the CORE answers
an illegal word with ILLEGAL_CMD (code 1, info the word), changing nothing but the fault state. -/
def Obligations.IllegalWordsAreTheListedOnesAndFault : Prop :=
  (∀ c : Word, (∃ e, decode c = .error e) ↔
    (c.toNat / 2 ^ 28 = 0 ∨ 10 ≤ c.toNat / 2 ^ 28 ∨
      c.toNat / 2 ^ 16 % 2 ^ 10 ≠ 0 ∨
      (5 ≤ c.toNat / 2 ^ 28 ∧ c.toNat / 2 ^ 28 ≤ 9 ∧ c.toNat / 2 ^ 26 % 4 ≠ 0) ∨
      ((c.toNat / 2 ^ 28 ≤ 4 ∨ c.toNat / 2 ^ 28 = 9) ∧ c.toNat % 2 ^ 16 ≠ 0) ∨
      (c.toNat / 2 ^ 28 = 8 ∧ 2 < c.toNat % 2 ^ 16))) ∧
  (∀ (s : State) (t : Transaction) (rest : List Event) (e : Reject),
    s.pending = .command t :: rest → decode t.cmd = .error e →
      step s = .next ((s.present t rest).faulted 1#4 (t.cmd.setWidth 64)))

/-! ## The step -/

/-- R78, R34: when the word the host presents next decodes to i, a step is exec of i on the state with the
transaction's inputs on the ports and the rest still to come. -/
def Obligations.StepRunsTheDecodedCommand : Prop :=
  ∀ (s : State) (t : Transaction) (rest : List Event) (i : Instr),
    s.pending = .command t :: rest → decode t.cmd = .ok i →
      step s = exec i { s with
        port := { s.port with cmd := t.cmd, wdata := t.wdata, dfltSeed := t.dfltSeed }
        pending := rest }

/-- R197, R201 and the model's choice of log entry 2: with nothing pending the CORE holds its state. -/
def Obligations.StepWithNothingPendingHoldsTheState : Prop :=
  ∀ s : State, s.pending = [] → step s = .next s

/-- R200, R36: a hard reset, also one during a command, leaves VALID, LEN, FAULT and FINFO 0 and no element written
(an empty deck memory is the model's rendering of "unspecified", log entries 4 and 6). -/
def Obligations.HardResetLeavesTheResetState : Prop :=
  ∀ (s : State) (rest : List Event),
    (s.pending = .hardReset :: rest ∨ ∃ t, s.pending = .aborted t :: rest) →
      ∃ u, step s = .next u ∧
        u.valid = { xs := false, mt := false, pcg := false, well := false } ∧
        u.len = 0#16 ∧ u.fault = 0#4 ∧ u.finfo = 0#64 ∧ (∀ k, u.view k = none) ∧ u.pending = rest

/-- R180: "A fault never stops the CORE": every step from every state answers a next state. -/
def Obligations.EveryStepAnswersANextState : Prop :=
  ∀ s : State, ∃ t, step s = .next t

/-- R36: the values the spec gives for reset. -/
def Obligations.ResetHasTheSpecsValues : Prop :=
  State.reset.valid = { xs := false, mt := false, pcg := false, well := false } ∧
  State.reset.len = 0#16 ∧ State.reset.fault = 0#4 ∧ State.reset.finfo = 0#64 ∧
  ∀ k, State.reset.view k = none

/-! ## Invariants and whole-machine rules -/

/-- R26, R27, R54: the invariant holds at reset. -/
def Obligations.InvariantHoldsAtReset : Prop := State.reset.Inv

/-- R26, R27, R54, R181, U9: every step keeps the canonical deck memory inside the deck space, LEN at most DECK_MAX
and a well-formed fault record, from every state that has them. -/
def Obligations.EveryStepKeepsTheInvariant : Prop :=
  ∀ s t : State, s.Inv → step s = .next t → t.Inv

/-- R37: unspecified generator state is unobservable. Two states that differ only in the fields of units that are
not constructed give, step by step, the same responses, and again differ only so. -/
def Obligations.UnconstructedStateIsUnobservable : Prop :=
  ∀ s t u v : State, s.sameButUnconstructed t → step s = .next u → step t = .next v →
    u.sameButUnconstructed v ∧ u.port.rdata = v.port.rdata ∧ u.port.faultOut = v.port.faultOut

/-- R27, R190, R191: FAULT and FINFO are written only when a command faults while FAULT is 0, with that fault's code
and info, and by RESET; a later fault leaves them. A response never carries a code above 5 (R181). -/
def Obligations.FaultRecordKeepsTheFirstFault : Prop :=
  ∀ (s : State) (t : Transaction) (rest : List Event), s.pending = .command t :: rest →
    ∃ u, step s = .next u ∧ u.port.faultOut.toNat ≤ 5 ∧
      (u.port.faultOut ≠ 0#4 → s.fault = 0#4 → u.fault = u.port.faultOut ∧ u.finfo = u.port.rdata) ∧
      (u.port.faultOut ≠ 0#4 → s.fault ≠ 0#4 → u.fault = s.fault ∧ u.finfo = s.finfo) ∧
      (u.port.faultOut = 0#4 → decode t.cmd ≠ .ok .reset → u.fault = s.fault ∧ u.finfo = s.finfo) ∧
      (decode t.cmd = .ok .reset → u.port.faultOut = 0#4 ∧ u.fault = 0#4 ∧ u.finfo = 0#64)

/-- R25: VALID[a] is set to 1 by SEED.a and cleared only by reset; every other command leaves it. -/
def Obligations.ValidBitsAreSetBySeedAndClearedByReset : Prop :=
  ∀ (i : Instr) (s : State) (a : GenUnit), ∃ t, exec i s = .next t ∧
    t.valid.get a = (if i = .reset then false else if i = seedOf a then true else s.valid.get a)

/-- R26: LEN is written only by DKLEN and reset; elements are written only by DKWR and SHUF (and forgotten by reset);
elements at or above LEN are touched by no command but reset. -/
def Obligations.DeckAndLenHaveOnlyTheirWriters : Prop :=
  ∀ (i : Instr) (s : State), i ≠ .reset → ∃ t, exec i s = .next t ∧
    ((∀ n, i ≠ .dklen n) → t.len = s.len) ∧
    ((∀ k, i ≠ .dkwr k) → (∀ a, i ≠ shufOf a) → ∀ k, t.view k = s.view k) ∧
    (∀ k, s.len.toNat ≤ k → t.view k = s.view k)

/-- R35 (a), R21 to R24: a command addressed to unit a leaves the state of the other units alone, and SEED, NEXTU and
NEXTF leave the deck and LEN too. -/
def Obligations.UnitCommandsTouchOnlyTheirUnit : Prop :=
  ∀ (a : GenUnit) (i : Instr) (s : State), isUnitCommand a i ∨ i = shufOf a → ∃ t, exec i s = .next t ∧
    (a ≠ .xs → t.xsX = s.xsX) ∧
    (a ≠ .mt → t.mt = s.mt ∧ t.mtIndex = s.mtIndex) ∧
    (a ≠ .pcg → t.pcgState = s.pcgState) ∧
    (a ≠ .well → t.ws = s.ws ∧ t.wellIndex = s.wellIndex) ∧
    (∀ b, b ≠ a → t.valid.get b = s.valid.get b) ∧
    (i ≠ shufOf a → (∀ k, t.view k = s.view k) ∧ t.freeCount = s.freeCount) ∧
    t.len = s.len ∧ t.pending = s.pending ∧
    t.port.cmd = s.port.cmd ∧ t.port.wdata = s.port.wdata ∧ t.port.dfltSeed = s.port.dfltSeed

/-- R21 to R25, R33: DKLEN, DKWR, DKRD and RDCR leave every generator field and every VALID bit alone. -/
def Obligations.DeckAndRegisterCommandsTouchNoUnit : Prop :=
  ∀ (i : Instr) (s : State),
    ((∃ n, i = .dklen n) ∨ (∃ k, i = .dkwr k) ∨ (∃ k, i = .dkrd k) ∨ ∃ r, i = .rdcr r) →
      ∃ t, exec i s = .next t ∧
        t.xsX = s.xsX ∧ t.mt = s.mt ∧ t.mtIndex = s.mtIndex ∧ t.pcgState = s.pcgState ∧
        t.ws = s.ws ∧ t.wellIndex = s.wellIndex ∧ t.valid = s.valid

/-- R35 (a): two commands among SEED, NEXTU and NEXTF addressed to different units, neither of which faults, give the
same final state and the same two responses in either order. -/
def Obligations.CommandsToDifferentUnitsCommute : Prop :=
  ∀ (s : State) (a b : GenUnit) (t u : Transaction) (i j : Instr), a ≠ b →
    decode t.cmd = .ok i → decode u.cmd = .ok j → isUnitCommand a i → isUnitCommand b j →
    (i = seedOf a ∨ s.valid.get a = true) → (j = seedOf b ∨ s.valid.get b = true) →
      ((s.answer t).answer u).sameCore ((s.answer u).answer t) ∧
      ((s.answer t).answer u).port.rdata = (s.answer u).port.rdata ∧
      ((s.answer u).answer t).port.rdata = (s.answer t).port.rdata ∧
      ((s.answer t).answer u).port.faultOut = 0#4 ∧ ((s.answer u).answer t).port.faultOut = 0#4 ∧
      (s.answer t).port.faultOut = 0#4 ∧ (s.answer u).port.faultOut = 0#4

/-- R35 (b), R210: the stream of a unit after SEED is a function of the seed, whatever state the SEED found, but for
SEED.XS of a zero seed, where it is a function of the substitute as well. -/
def Obligations.StreamDependsOnlyOnTheSeed : Prop :=
  ∀ (a : GenUnit) (s t : State), s.port.wdata = t.port.wdata →
    (a = .xs → s.port.wdata.toNat % 2 ^ 32 = 0 → s.port.dfltSeed = t.port.dfltSeed) →
      ∃ u v, exec (seedOf a) s = .next u ∧ exec (seedOf a) t = .next v ∧ ∀ k, u.sample a k = v.sample a k

/-! ## Xorshift32 -/

/-- R100: SEED.XS. The new state word is the truncated seed, or `dflt_seed` when that is zero. -/
def Obligations.SeedXsConstructsTheUnit : Prop :=
  ∀ s : State, exec .seedXs s = .next
    ({ s with
        xsX := if s.port.wdata.toNat % 2 ^ 32 = 0 then s.port.dfltSeed
               else BitVec.ofNat 32 s.port.wdata.toNat
        valid := { s.valid with xs := true } }.completed 0#64)

/-- R101, R102: NEXTU.XS applies the three shifts in order and returns the new state word; on a unit not constructed
it faults with code 4 and leaves the unit. -/
def Obligations.NextuXsReturnsTheNewWord : Prop :=
  (∀ s : State, s.valid.xs = true →
    let a := s.xsX ^^^ (s.xsX <<< 13)
    let b := a ^^^ (a >>> 17)
    let c := b ^^^ (b <<< 5)
    exec .nextuXs s = .next ({ s with xsX := c }.completed (c.setWidth 64))) ∧
  (∀ s : State, s.valid.xs = false →
    exec .nextuXs s = .next (s.faulted 4#4 (s.port.cmd.setWidth 64)))

/-- R103, R10: NEXTF.XS makes the step NEXTU.XS makes and returns the new word divided by 2^31, with no rounding;
the quotient lies between 0 and 2 - 2^-31 and reaches 1 exactly when bit 31 of the new word is 1. -/
def Obligations.NextfXsDividesExactly : Prop :=
  (∀ s : State, s.valid.xs = true →
    let a := s.xsX ^^^ (s.xsX <<< 13)
    let b := a ^^^ (a >>> 17)
    let c := b ^^^ (b <<< 5)
    exec .nextfXs s = .next ({ s with xsX := c }.completed (f64bits ((c.toNat : ℚ) / 2 ^ 31)))) ∧
  (∀ c : Word, 0 ≤ (c.toNat : ℚ) / 2 ^ 31 ∧ (c.toNat : ℚ) / 2 ^ 31 ≤ 2 - 1 / 2 ^ 31 ∧
    (1 ≤ (c.toNat : ℚ) / 2 ^ 31 ↔ c.getLsbD 31 = true)) ∧
  (∀ s : State, s.valid.xs = false →
    exec .nextfXs s = .next (s.faulted 4#4 (s.port.cmd.setWidth 64)))

/-- R101: `xs_step` is the three shifts in order; a draw writes its result to the state and returns it; it is a
bijection on 32-bit words and keeps zero. -/
def Obligations.XsStepIsABijectionThatKeepsZero : Prop :=
  (∀ x : Word,
    let a := x ^^^ (x <<< 13)
    let b := a ^^^ (a >>> 17)
    xsStep x = b ^^^ (b <<< 5)) ∧
  (∀ s : State, s.draw .xs = (xsStep s.xsX, { s with xsX := xsStep s.xsX })) ∧
  Function.Bijective xsStep ∧ xsStep 0#32 = 0#32

/-- R207: the zero state of Xorshift32 is absorbing, and a non-zero state never becomes zero. -/
def Obligations.XsZeroStateIsAbsorbing : Prop :=
  ∀ s : State, ∀ k : Nat, (State.drawN .xs k s).xsX = 0#32 ↔ s.xsX = 0#32

/-! ## Mersenne Twister -/

/-- R110, R111: SEED.MT fills the array by the seed expansion and puts the cursor at 0. -/
def Obligations.SeedMtExpandsTheSeed : Prop :=
  ∀ s : State, ∃ v : MtArray,
    exec .seedMt s = .next ({ s with mt := v, mtIndex := 0, valid := { s.valid with mt := true } }.completed 0#64) ∧
    v[0] = BitVec.ofNat 32 s.port.wdata.toNat ∧
    ∀ (i : Nat) (h : i + 1 < 624),
      v[i + 1] = 1812433253#32 * (v[i] ^^^ (v[i] >>> 30)) + BitVec.ofNat 32 (i + 1)

/-- R114, R115: NEXTU.MT returns the tempered word at the cursor and advances it; at the cursor 624 it twists first.
On a unit not constructed it faults with code 4. -/
def Obligations.NextuMtDrawsAtTheCursor : Prop :=
  (∀ (s : State) (h : s.mtIndex.val < 624), s.valid.mt = true →
    ∃ t, exec .nextuMt s = .next t ∧ t.mtIndex.val = s.mtIndex.val + 1 ∧
      t = { s with mtIndex := t.mtIndex }.completed ((mtTemper s.mt[s.mtIndex.val]).setWidth 64)) ∧
  (∀ s : State, s.mtIndex.val = 624 → s.valid.mt = true →
    exec .nextuMt s =
      .next ({ s with mt := mtTwist s.mt, mtIndex := 1 }.completed ((mtTemper (mtTwist s.mt)[0]).setWidth 64))) ∧
  (∀ s : State, s.valid.mt = false →
    exec .nextuMt s = .next (s.faulted 4#4 (s.port.cmd.setWidth 64)))

/-- R112: the twist, word by word. For i = 0..226 the far word is an old one, for i = 227..623 a new one; the
neighbour of word 623 is the new word 0, every other neighbour is old. (Indexes wrap modulo 624.) -/
def Obligations.MtTwistIsInPlaceAndAscending : Prop :=
  ∀ (v : MtArray) (i : Fin 624),
    let u := mtTwist v
    let next := if i.val = 623 then u[i + 1] else v[i + 1]
    let far := if i.val < 227 then v[i + 397] else u[i + 397]
    let y := (v[i] &&& 0x80000000#32) ||| (next &&& 0x7FFFFFFF#32)
    u[i] = if y.getLsbD 0 then far ^^^ (y >>> 1) ^^^ 0x9908B0DF#32 else far ^^^ (y >>> 1)

/-- R113: the tempering, line by line; it is a bijection and keeps zero. -/
def Obligations.MtTemperIsABijection : Prop :=
  (∀ y : Word,
    let a := y ^^^ (y >>> 11)
    let b := a ^^^ ((a <<< 7) &&& 0x9D2C5680#32)
    let c := b ^^^ ((b <<< 15) &&& 0xEFC60000#32)
    mtTemper y = c ^^^ (c >>> 18)) ∧
  Function.Bijective mtTemper ∧ mtTemper 0#32 = 0#32

/-- R117, R110: for k = 1..624 the k-th draw after SEED.MT returns the tempered word k-1 of the expansion of the
truncated seed, which is word k-1 of the array, with no twist. -/
def Obligations.MtFirst624DrawsAreTheExpansion : Prop :=
  ∀ s : State, ∃ t, exec .seedMt s = .next t ∧
    ∀ (k : Nat) (h : k < 624), t.mt[k] = lcgWord (BitVec.ofNat 32 s.port.wdata.toNat) k ∧
      t.sample .mt k = mtTemper (lcgWord (BitVec.ofNat 32 s.port.wdata.toNat) k) ∧
      (State.drawN .mt k t).mtIndex.val = k ∧ (State.drawN .mt k t).mt = t.mt

/-- R118: after 624 draws the cursor is 624 and the array is still the seeded one; the 625th draw twists and returns
the tempered new word 0, leaving the cursor at 1. -/
def Obligations.MtDraw625Twists : Prop :=
  ∀ s : State, ∃ t, exec .seedMt s = .next t ∧
    (State.drawN .mt 624 t).mtIndex.val = 624 ∧ (State.drawN .mt 624 t).mt = t.mt ∧
    t.sample .mt 624 = mtTemper (mtTwist t.mt)[0] ∧
    (State.drawN .mt 625 t).mt = mtTwist t.mt ∧ (State.drawN .mt 625 t).mtIndex.val = 1

/-! ## PCG32 -/

/-- R131: SEED.PCG. The state is the seed itself, all 64 bits. -/
def Obligations.SeedPcgTakesAll64Bits : Prop :=
  ∀ s : State, exec .seedPcg s = .next
    ({ s with pcgState := s.port.wdata, valid := { s.valid with pcg := true } }.completed 0#64)

/-- R130, R132, R133: NEXTU.PCG steps the 64-bit congruence and returns the rotated word computed from the state
before the step; on a unit not constructed it faults with code 4. -/
def Obligations.NextuPcgRotatesTheOldState : Prop :=
  (∀ s : State, s.valid.pcg = true →
    let old := s.pcgState
    let xs : Word := (((old >>> 18) ^^^ old) >>> 27).setWidth 32
    exec .nextuPcg s = .next
      ({ s with pcgState := BitVec.ofNat 64 (2315583 + 6364136223846793005 * old.toNat) }.completed
        ((xs.rotateRight (old.toNat / 2 ^ 59)).setWidth 64))) ∧
  (∀ s : State, s.valid.pcg = false →
    exec .nextuPcg s = .next (s.faulted 4#4 (s.port.cmd.setWidth 64)))

/-! ## WELL512a-simplified -/

/-- R110, R141: SEED.WELL fills the 16 words by the seed expansion and puts the cursor at 0. -/
def Obligations.SeedWellExpandsTheSeed : Prop :=
  ∀ s : State, ∃ v : WellArray,
    exec .seedWell s = .next ({ s with ws := v, wellIndex := 0, valid := { s.valid with well := true } }.completed 0#64) ∧
    v[0] = BitVec.ofNat 32 s.port.wdata.toNat ∧
    ∀ (i : Nat) (h : i + 1 < 16),
      v[i + 1] = 1812433253#32 * (v[i] ^^^ (v[i] >>> 30)) + BitVec.ofNat 32 (i + 1)

/-- R142, R143 (90_conflicts C2): NEXTU.WELL writes the word at the cursor and returns the word at the next cursor,
which this draw did not touch; on a unit not constructed it faults with code 4. -/
def Obligations.NextuWellReturnsTheWordAtTheNewIndex : Prop :=
  (∀ s : State, s.valid.well = true →
    let k := s.wellIndex
    let y := s.ws[k]
    let w := s.ws[k + 15] ^^^ (y >>> 1) ^^^ wellMx y
    exec .nextuWell s = .next
      ({ s with ws := s.ws.set k.val w k.isLt, wellIndex := k + 1 }.completed (s.ws[k + 1].setWidth 64))) ∧
  (∀ s : State, s.valid.well = false →
    exec .nextuWell s = .next (s.faulted 4#4 (s.port.cmd.setWidth 64)))

/-- R145: the first 31 draws after SEED.WELL in closed form, draw d being word d-1 of the stream. -/
def Obligations.WellFirst31DrawsInClosedForm : Prop :=
  ∀ s : State, ∃ t, exec .seedWell s = .next t ∧
    let E := lcgWord (BitVec.ofNat 32 s.port.wdata.toNat)
    (∀ d, 1 ≤ d → d ≤ 15 → t.sample .well (d - 1) = E d) ∧
    t.sample .well 15 = E 15 ^^^ (E 0 >>> 1) ^^^ wellMx (E 0) ∧
    (∀ d, 17 ≤ d → d ≤ 31 → t.sample .well (d - 1) = wellRewritten E (d - 16)) ∧
    (s.port.wdata.toNat % 2 = 0 → t.sample .well 15 = E 15 ^^^ (E 0 >>> 1))

/-! ## Floats -/

/-- R116, R134, R144: NEXTF.MT, NEXTF.PCG and NEXTF.WELL make the draw that NEXTU makes, the one draw of the unit's
stream, and return its Sample divided by 2^32 - 1, rounded once: a number from 0 to 1 that is 1 only for the largest
word. On a unit not constructed they fault with code 4. -/
def Obligations.NextfDividesTheSampleOfNextu : Prop :=
  ∀ (a : GenUnit), a ≠ .xs →
    (∀ s : State, s.valid.get a = true →
      exec (nextuOf a) s = .next ((s.draw a).2.completed ((s.draw a).1.setWidth 64)) ∧
      exec (nextfOf a) s =
        .next ((s.draw a).2.completed (f64bits (rne64 (((s.draw a).1.toNat : ℚ) / 4294967295))))) ∧
    (∀ w : Word, 0 ≤ rne64 ((w.toNat : ℚ) / 4294967295) ∧ rne64 ((w.toNat : ℚ) / 4294967295) ≤ 1 ∧
      (rne64 ((w.toNat : ℚ) / 4294967295) = 1 ↔ w = 0xFFFFFFFF#32)) ∧
    (∀ s : State, s.valid.get a = false →
      exec (nextfOf a) s = .next (s.faulted 4#4 (s.port.cmd.setWidth 64)))

/-- R9: `rne64` takes the integer number of ulps nearest to the value, the even one on a tie, and `f64bits` is sign 0,
the exponent biased by 1023 and the fraction. -/
def Obligations.RoundingIsToNearestEven : Prop :=
  rne64 0 = 0 ∧
  (∀ q : ℚ, 0 < q → ∃ e r : ℤ, (2 : ℚ) ^ e ≤ q ∧ q < (2 : ℚ) ^ (e + 1) ∧
    2 ^ 52 ≤ r ∧ r ≤ 2 ^ 53 ∧ rne64 q = r * (2 : ℚ) ^ (e - 52) ∧
    ∀ k : ℤ, |q / (2 : ℚ) ^ (e - 52) - r| ≤ |q / (2 : ℚ) ^ (e - 52) - k| ∧
      (k ≠ r → |q / (2 : ℚ) ^ (e - 52) - r| = |q / (2 : ℚ) ^ (e - 52) - k| → r % 2 = 0)) ∧
  f64bits 0 = 0#64 ∧
  (∀ e : ℤ, ∀ r : Nat, -1022 ≤ e → e ≤ 1023 → 2 ^ 52 ≤ r → r < 2 ^ 53 →
    (f64bits ((r : ℚ) * (2 : ℚ) ^ (e - 52))).toNat = (e + 1023).toNat * 2 ^ 52 + (r - 2 ^ 52))

/-- R10: the normalisation. Division by 2^31 is exact; division by 2^32 - 1 is rounded once; zero and the largest word
give the values the rule names. -/
def Obligations.NormalisationOfWords : Prop :=
  (∀ w : Word, normDiv w 2147483648 = (w.toNat : ℚ) / 2 ^ 31) ∧
  (∀ w : Word, normDiv w 4294967295 = rne64 ((w.toNat : ℚ) / 4294967295)) ∧
  normDiv 0#32 2147483648 = 0 ∧ normDiv 0#32 4294967295 = 0 ∧
  normDiv 0xFFFFFFFF#32 4294967295 = 1 ∧ normDiv 0xFFFFFFFF#32 2147483648 = 2 - 1 / 2 ^ 31

/-- R103, R116, R134, R144, C1: the float of XS lies in [0, 2), that of the others in [0, 1], closed at 1 for the one
word 0xFFFFFFFF; so do the patterns NEXTF returns. -/
def Obligations.FloatRanges : Prop :=
  (∀ w : Word, 0 ≤ normDiv w (unitDiv .xs) ∧ normDiv w (unitDiv .xs) ≤ 2 - 1 / 2 ^ 31 ∧
    (1 ≤ normDiv w (unitDiv .xs) ↔ w.getLsbD 31 = true) ∧
    (f64bits (normDiv w (unitDiv .xs))).toNat ≤ 0x3FFFFFFFFFE00000) ∧
  (∀ (a : GenUnit) (w : Word), a ≠ .xs → 0 ≤ normDiv w (unitDiv a) ∧ normDiv w (unitDiv a) ≤ 1 ∧
    (normDiv w (unitDiv a) = 1 ↔ w = 0xFFFFFFFF#32) ∧
    (f64bits (normDiv w (unitDiv a))).toNat ≤ 0x3FF0000000000000)

/-- R155 (a): the swap index of XS in integers. -/
def Obligations.ShufIndexOfXsInIntegers : Prop :=
  ∀ (x : Word) (n : Nat), 2 ≤ n → n ≤ 65535 →
    shufIndex (normDiv x (unitDiv .xs)) n = x.toNat * n / 2 ^ 31 ∧ x.toNat * n / 2 ^ 31 ≤ 2 * n - 1

/-- R155 (b): the swap index of MT, PCG and WELL is the floor of the exact quotient, or where that quotient is an
integer perhaps one less. -/
def Obligations.ShufIndexOfOthersInIntegers : Prop :=
  ∀ (a : GenUnit) (w : Word) (n : Nat), a ≠ .xs → 2 ≤ n → n ≤ 65535 →
    shufIndex (normDiv w (unitDiv a)) n ≤ n ∧
    (¬ 4294967295 ∣ w.toNat * n → shufIndex (normDiv w (unitDiv a)) n = w.toNat * n / 4294967295) ∧
    (4294967295 ∣ w.toNat * n →
      shufIndex (normDiv w (unitDiv a)) n = w.toNat * n / 4294967295 ∨
      shufIndex (normDiv w (unitDiv a)) n + 1 = w.toNat * n / 4294967295)

/-- R186: for every unit and every position i, the swap index exceeds i exactly when the drawn float is at least 1:
for XS a word with bit 31 set, for the others the one word 0xFFFFFFFF. -/
def Obligations.IndexRangeExactlyWhenTheFloatReachesOne : Prop :=
  ∀ (a : GenUnit) (w : Word) (i : Nat), 1 ≤ i → i ≤ 65534 →
    (i < shufIndex (normDiv w (unitDiv a)) (i + 1) ↔ 1 ≤ normDiv w (unitDiv a)) ∧
    (1 ≤ normDiv w (unitDiv a) ↔ if a = .xs then 2 ^ 31 ≤ w.toNat else w = 0xFFFFFFFF#32)

/-! ## Deck commands -/

/-- R150, R183: DKLEN sets the length and changes no element, up to DECK_MAX; above it BAD_LENGTH (code 2). -/
def Obligations.DklenSetsTheLength : Prop :=
  (∀ (n : BitVec 16) (s : State), n.toNat ≤ Config.deckMax →
    exec (.dklen n) s = .next ({ s with len := n }.completed 0#64)) ∧
  (∀ (n : BitVec 16) (s : State), exec (.dklen n) s = .next
    (if n.toNat ≤ Config.deckMax then { s with len := n }.completed 0#64
     else s.faulted 2#4 (s.port.cmd.setWidth 64)))

/-- R151, R184: DKWR writes element k whole and no other; at or above LEN it is BAD_INDEX (code 3). -/
def Obligations.DkwrWritesOneElement : Prop :=
  (∀ (k : BitVec 16) (s : State), k.toNat < s.len.toNat →
    ∃ t, exec (.dkwr k) s = .next t ∧
      t.view k.toNat = some (BitVec.ofNat 32 s.port.wdata.toNat) ∧
      (∀ n, n ≠ k.toNat → t.view n = s.view n) ∧
      t = { s with deck := t.deck }.completed 0#64) ∧
  (∀ (k : BitVec 16) (s : State), s.len.toNat ≤ k.toNat →
    exec (.dkwr k) s = .next (s.faulted 3#4 (s.port.cmd.setWidth 64)))

/-- R152, R184, R55: DKRD answers element k zero-extended and changes no state; an element not written since reset
reads as some 32-bit value (a free value, log entry 7); at or above LEN it is BAD_INDEX (code 3). -/
def Obligations.DkrdReadsOneElement : Prop :=
  (∀ (k : BitVec 16) (s : State) (v : Word), k.toNat < s.len.toNat → s.view k.toNat = some v →
    exec (.dkrd k) s = .next (s.completed (v.setWidth 64))) ∧
  (∀ (k : BitVec 16) (s : State), k.toNat < s.len.toNat → s.view k.toNat = none →
    ∃ (v : Word) (n : Nat), exec (.dkrd k) s = .next ((s.withDeck s.deck n).completed (v.setWidth 64))) ∧
  (∀ (k : BitVec 16) (s : State), s.len.toNat ≤ k.toNat →
    exec (.dkrd k) s = .next (s.faulted 3#4 (s.port.cmd.setWidth 64)))

/-- R150 to R152, R57: a DKRD after a DKWR answers the element written, also after the deck was shortened and grown
again in between. -/
def Obligations.DeckReadsBackWhatWasWritten : Prop :=
  ∀ (k m : BitVec 16) (s : State), k.toNat < s.len.toNat → s.len.toNat ≤ Config.deckMax →
    m.toNat ≤ Config.deckMax →
    ∃ t u v x, exec (.dkwr k) s = .next t ∧ exec (.dklen m) t = .next u ∧ exec (.dklen s.len) u = .next v ∧
      exec (.dkrd k) v = .next x ∧ x.port.faultOut = 0#4 ∧
      x.port.rdata = (BitVec.ofNat 32 s.port.wdata.toNat).setWidth 64

/-! ## Shuffle -/

/-- R162: SHUF on a constructed unit with LEN 0 or 1 draws nothing, touches no element and responds 0. -/
def Obligations.ShufOfAShortDeckIsANoOp : Prop :=
  ∀ (a : GenUnit) (s : State), s.valid.get a = true → s.len.toNat ≤ 1 →
    exec (shufOf a) s = .next (s.completed 0#64)

/-- R156, R185, R189, D27: SHUF on a unit not constructed faults with code 4, whatever the deck is, and changes
nothing else. -/
def Obligations.ShufOfAnUnconstructedUnitFaults : Prop :=
  ∀ (a : GenUnit) (s : State), s.valid.get a = false →
    exec (shufOf a) s = .next (s.faulted 4#4 (s.port.cmd.setWidth 64))

/-- R156 to R160, R163: SHUF.XS, SHUF.MT, SHUF.PCG and SHUF.WELL, when no drawn word gives an index beyond the element
being placed, complete with response 0 after exactly LEN-1 draws of the unit's one stream, change nothing else but the
deck, and leave the deck (where its elements were written) as the Fisher-Yates swaps at LEN-1, ..., 1 leave it. -/
def Obligations.ShufCompletesAsFisherYates : Prop :=
  ∀ (a : GenUnit) (s : State), s.valid.get a = true → s.drawsInRange a →
    ∃ t d n, exec (shufOf a) s = .next t ∧
      t = ((State.drawN a (s.len.toNat - 1) s).withDeck d n).completed 0#64 ∧
      (∀ k, s.len.toNat ≤ k → t.view k = s.view k) ∧
      (s.deckWritten → n = s.freeCount ∧ ∀ k, t.view k = s.shuffledView a (s.len.toNat - 1) k)

/-- R156, R163, R181, R186: when position i is the first whose index exceeds it, SHUF ends with code 5 and the info
j * 2^16 + i; LEN - i draws are consumed, the swaps above i are done, the positions up to i are as they were then. -/
def Obligations.ShufStopsAtTheFirstIndexOutOfRange : Prop :=
  ∀ (a : GenUnit) (s : State) (i : Nat), s.valid.get a = true → 1 ≤ i → i < s.len.toNat →
    (∀ p, i < p → p < s.len.toNat → s.swapIndex a p ≤ p) → i < s.swapIndex a i →
      ∃ t d n, exec (shufOf a) s = .next t ∧
        t = ((State.drawN a (s.len.toNat - i) s).withDeck d n).faulted 5#4
              (BitVec.ofNat 64 (s.swapIndex a i * 2 ^ 16 + i)) ∧
        (∀ k, s.len.toNat ≤ k → t.view k = s.view k) ∧
        (s.deckWritten → n = s.freeCount ∧ ∀ k, t.view k = s.shuffledView a (s.len.toNat - 1 - i) k)

/-- R161: whether SHUF completes or ends with INDEX_RANGE, the live deck afterwards is a rearrangement of the live deck
before (its elements being written), elements at or above LEN are untouched and LEN is unchanged. -/
def Obligations.ShufPermutesTheDeck : Prop :=
  ∀ (a : GenUnit) (s : State), ∃ t, exec (shufOf a) s = .next t ∧
    t.len = s.len ∧ (∀ k, s.len.toNat ≤ k → t.view k = s.view k) ∧
    (s.deckWritten →
      ((List.range s.len.toNat).map t.view).Perm ((List.range s.len.toNat).map s.view))

/-! ## System commands -/

/-- R170, R28 to R30: RDCR answers STATUS, LEN or FINFO and changes no state; a register above 2 is ILLEGAL_CMD
(code 1). -/
def Obligations.RdcrReadsTheControlRegisters : Prop :=
  ∀ s : State,
    exec (.rdcr 0#16) s = .next (s.completed (BitVec.ofNat 64
      (16 * s.fault.toNat + 8 * s.valid.well.toNat + 4 * s.valid.pcg.toNat + 2 * s.valid.mt.toNat
        + s.valid.xs.toNat))) ∧
    exec (.rdcr 1#16) s = .next (s.completed (BitVec.ofNat 64 s.len.toNat)) ∧
    exec (.rdcr 2#16) s = .next (s.completed s.finfo) ∧
    ∀ r : BitVec 16, 2 < r.toNat → exec (.rdcr r) s = .next (s.faulted 1#4 (s.port.cmd.setWidth 64))

/-- R171, R36: RESET leaves VALID, LEN, FAULT and FINFO 0, no element written (the model's rendering of "unspecified",
log entries 4 and 6), and responds 0; the host's side stays. -/
def Obligations.ResetCommandLeavesTheResetState : Prop :=
  ∀ s : State, ∃ t, exec .reset s = .next t ∧
    t.valid = { xs := false, mt := false, pcg := false, well := false } ∧
    t.len = 0#16 ∧ t.fault = 0#4 ∧ t.finfo = 0#64 ∧ (∀ k, t.view k = none) ∧
    t.port = { s.port with rdata := 0#64, faultOut := 0#4 } ∧ t.pending = s.pending

/-! ## The stream of a unit -/

/-- R104, R136, R146, R153: the stream that the statements on draws speak of is the one NEXTU and NEXTF read. On every
constructed unit, after any number k of draws, NEXTU answers word k of the stream and NEXTF that word normalised, and
each leaves the state after one draw more. -/
def Obligations.NextuAndNextfReadTheOneStream : Prop :=
  ∀ (a : GenUnit) (s : State) (k : Nat), s.valid.get a = true →
    exec (nextuOf a) (State.drawN a k s) =
      .next ((State.drawN a (k + 1) s).completed ((s.sample a k).setWidth 64)) ∧
    exec (nextfOf a) (State.drawN a k s) =
      .next ((State.drawN a (k + 1) s).completed (f64bits (normDiv (s.sample a k) (unitDiv a))))
end

