-- ==== Sys2Proof/Laws/Float.lean ====
section
/-!
SUPPORT. The laws of the binary64 arithmetic: the exponent of a rational, the distance of a rounding, and when a
rounding is exact.
-/
namespace Sys2Proof.Machine

theorem pow2_eq_zpow (e : Int) : pow2 e = (2 : ℚ) ^ e := by
  cases e with
  | ofNat k => simp [pow2]
  | negSucc k => simp [pow2, zpow_negSucc]

theorem pow2_pos (e : Int) : 0 < pow2 e := by
  rw [pow2_eq_zpow]; positivity

theorem pow2_add (a b : Int) : pow2 (a + b) = pow2 a * pow2 b := by
  simp only [pow2_eq_zpow]
  exact zpow_add₀ (by norm_num) a b

theorem pow2_le_pow2 {a b : Int} (h : a ≤ b) : pow2 a ≤ pow2 b := by
  simp only [pow2_eq_zpow]
  exact zpow_le_zpow_right₀ (by norm_num) h

theorem pow2_lt_pow2 {a b : Int} (h : pow2 a < pow2 b) : a < b := by
  by_contra hc
  exact absurd h (not_lt.2 (pow2_le_pow2 (not_lt.1 hc)))

/-- `expOf` is the exponent of R9. -/
theorem expOf_spec {q : ℚ} (hq : 0 < q) : pow2 (expOf q) ≤ q ∧ q < pow2 (expOf q + 1) := by
  have hn : 0 < q.num := Rat.num_pos.2 hq
  have hna : q.num.natAbs ≠ 0 := by omega
  have hd : q.den ≠ 0 := q.den_nz
  have hqe : q = (q.num.natAbs : ℚ) / (q.den : ℚ) := by
    have h1 : ((q.num.natAbs : Nat) : ℚ) = ((q.num.natAbs : Int) : ℚ) := (Int.cast_natCast _).symm
    rw [h1, Int.natAbs_of_nonneg hn.le, Rat.num_div_den]
  have n1 : (2 : ℚ) ^ (Nat.log2 q.num.natAbs) ≤ q.num.natAbs := by exact_mod_cast Nat.log2_self_le hna
  have n2 : (q.num.natAbs : ℚ) < 2 ^ (Nat.log2 q.num.natAbs + 1) := by exact_mod_cast Nat.lt_log2_self
  have d1 : (2 : ℚ) ^ (Nat.log2 q.den) ≤ q.den := by exact_mod_cast Nat.log2_self_le hd
  have d2 : (q.den : ℚ) < 2 ^ (Nat.log2 q.den + 1) := by exact_mod_cast Nat.lt_log2_self
  have dpos : (0 : ℚ) < q.den := by exact_mod_cast Nat.pos_of_ne_zero hd
  have up : q < pow2 ((Nat.log2 q.num.natAbs : Int) - Nat.log2 q.den + 1) := by
    rw [pow2_eq_zpow, show (Nat.log2 q.num.natAbs : Int) - Nat.log2 q.den + 1
      = ((Nat.log2 q.num.natAbs + 1 : Nat) : Int) - ((Nat.log2 q.den : Nat) : Int) by push_cast; ring,
      zpow_sub₀ (by norm_num), zpow_natCast, zpow_natCast]
    refine lt_of_eq_of_lt hqe ?_
    rw [div_lt_div_iff₀ dpos (by positivity)]
    calc (q.num.natAbs : ℚ) * 2 ^ Nat.log2 q.den < 2 ^ (Nat.log2 q.num.natAbs + 1) * 2 ^ Nat.log2 q.den := by
          gcongr
      _ ≤ 2 ^ (Nat.log2 q.num.natAbs + 1) * q.den := by gcongr
  have lo : pow2 ((Nat.log2 q.num.natAbs : Int) - Nat.log2 q.den - 1) ≤ q := by
    rw [pow2_eq_zpow, show (Nat.log2 q.num.natAbs : Int) - Nat.log2 q.den - 1
      = ((Nat.log2 q.num.natAbs : Nat) : Int) - ((Nat.log2 q.den + 1 : Nat) : Int) by push_cast; ring,
      zpow_sub₀ (by norm_num), zpow_natCast, zpow_natCast]
    refine le_of_le_of_eq ?_ hqe.symm
    rw [div_le_div_iff₀ (by positivity) dpos]
    calc (2 : ℚ) ^ Nat.log2 q.num.natAbs * q.den ≤ q.num.natAbs * q.den := by gcongr
      _ ≤ q.num.natAbs * 2 ^ (Nat.log2 q.den + 1) := by gcongr
  simp only [expOf]
  split
  · next h => exact ⟨h, up⟩
  · next h => exact ⟨lo, by rw [sub_add_cancel]; exact not_le.1 h⟩

/-- The exponent is the only one. -/
theorem expOf_eq {q : ℚ} {e : Int} (h1 : pow2 e ≤ q) (h2 : q < pow2 (e + 1)) : expOf q = e := by
  have hq : 0 < q := lt_of_lt_of_le (pow2_pos e) h1
  obtain ⟨a, b⟩ := expOf_spec hq
  have := pow2_lt_pow2 (lt_of_le_of_lt a h2)
  have := pow2_lt_pow2 (lt_of_le_of_lt h1 b)
  omega

/-- Rounding to an integer moves by at most a half. -/
theorem nearestEven_dist (m : ℚ) : |m - nearestEven m| ≤ 1 / 2 := by
  have h1 : ((m.floor : Int) : ℚ) ≤ m := by
    rw [show m.floor = ⌊m⌋ from rfl]; exact Int.floor_le m
  have h2 : m < (m.floor : Int) + 1 := by
    rw [show m.floor = ⌊m⌋ from rfl]; exact Int.lt_floor_add_one m
  simp only [nearestEven]
  rw [abs_le]
  split
  · constructor <;> linarith
  · split
    · push_cast; constructor <;> linarith
    · split
      · constructor <;> linarith
      · push_cast; constructor <;> linarith

/-- An integer rounds to itself. -/
theorem nearestEven_intCast (k : Int) : nearestEven (k : ℚ) = k := by
  have : (k : ℚ).floor = k := by rw [show (k : ℚ).floor = ⌊(k : ℚ)⌋ from rfl]; exact Int.floor_intCast k
  simp [nearestEven, this]

theorem rne64_of_nonpos {q : ℚ} (h : q ≤ 0) : rne64 q = 0 := by simp [rne64, h]

/-- For q > 0 the rounded value is an integer number of ulps. -/
theorem rne64_of_pos {q : ℚ} (h : 0 < q) :
    rne64 q = (nearestEven (q / pow2 (expOf q - 52)) : ℚ) * pow2 (expOf q - 52) := by
  simp [rne64, not_le.2 h]

/-- Rounding moves by at most half an ulp. -/
theorem rne64_dist {q : ℚ} (h : 0 < q) : |rne64 q - q| ≤ pow2 (expOf q - 52) / 2 := by
  have hp := pow2_pos (expOf q - 52)
  have hd := nearestEven_dist (q / pow2 (expOf q - 52))
  have e : rne64 q - q =
      -((q / pow2 (expOf q - 52) - nearestEven (q / pow2 (expOf q - 52))) * pow2 (expOf q - 52)) := by
    rw [rne64_of_pos h]
    field_simp
    ring
  rw [e, abs_neg, abs_mul, abs_of_pos hp]
  calc |q / pow2 (expOf q - 52) - nearestEven (q / pow2 (expOf q - 52))| * pow2 (expOf q - 52)
      ≤ 1 / 2 * pow2 (expOf q - 52) := by gcongr
    _ = pow2 (expOf q - 52) / 2 := by ring

/-- An ulp is at most 2^-52 of the value. -/
theorem ulp_le {q : ℚ} (h : 0 < q) : pow2 (expOf q - 52) ≤ q / 2 ^ 52 := by
  have := (expOf_spec h).1
  rw [sub_eq_add_neg, pow2_add, show pow2 (-52) = 1 / 2 ^ 52 by rw [pow2_eq_zpow]; norm_num]
  rw [mul_one_div]
  gcongr

/-- The relative error of a rounding (R155: q * 2^-53 at most). -/
theorem rne64_rel {q : ℚ} (h : 0 ≤ q) : |rne64 q - q| ≤ q / 2 ^ 53 := by
  rcases h.eq_or_lt with rfl | h
  · simp [rne64]
  · have h1 := rne64_dist h
    have h2 := ulp_le h
    calc |rne64 q - q| ≤ pow2 (expOf q - 52) / 2 := h1
      _ ≤ q / 2 ^ 52 / 2 := by gcongr
      _ = q / 2 ^ 53 := by ring

theorem rne64_nonneg (q : ℚ) : 0 ≤ rne64 q := by
  rcases le_or_gt q 0 with h | h
  · rw [rne64_of_nonpos h]
  · have h1 := (abs_le.1 (rne64_rel h.le)).1
    have : q / 2 ^ 53 ≤ q := by rw [div_le_iff₀ (by positivity)]; nlinarith
    linarith

theorem rne64_le_two_mul {q : ℚ} (h : 0 ≤ q) : rne64 q ≤ 2 * q := by
  have h1 := (abs_le.1 (rne64_rel h)).2
  have : q / 2 ^ 53 ≤ q := by rw [div_le_iff₀ (by positivity)]; nlinarith
  linarith

/-- What is an integer number of its own ulps is rounded to itself. -/
theorem rne64_exact {r : Int} {e : Int} (hr : 0 < r) (h2 : (r : ℚ) < 2 ^ 53) : rne64 ((r : ℚ) * pow2 e) = r * pow2 e := by
  have hp := pow2_pos e
  have hr' : (0 : ℚ) < r := by exact_mod_cast hr
  have hq : 0 < (r : ℚ) * pow2 e := mul_pos hr' hp
  have hlt : pow2 (expOf ((r : ℚ) * pow2 e)) < pow2 (53 + e) := by
    refine lt_of_le_of_lt (expOf_spec hq).1 ?_
    rw [pow2_add, show pow2 53 = 2 ^ 53 by rw [pow2_eq_zpow]; norm_num]
    gcongr
  have hle := pow2_lt_pow2 hlt
  obtain ⟨n, hn⟩ : ∃ n : Nat, (n : Int) = e - (expOf ((r : ℚ) * pow2 e) - 52) :=
    ⟨(e - (expOf ((r : ℚ) * pow2 e) - 52)).toNat, by omega⟩
  have hdiv : (r : ℚ) * pow2 e / pow2 (expOf ((r : ℚ) * pow2 e) - 52) = ((r * 2 ^ n : Int) : ℚ) := by
    have : pow2 e = pow2 (n : Int) * pow2 (expOf ((r : ℚ) * pow2 e) - 52) := by
      rw [← pow2_add, hn]; congr 1; ring
    conv_lhs => rw [this, ← this]
    rw [div_eq_iff (pow2_pos _).ne']
    conv_lhs => rw [this]
    rw [show pow2 (n : Int) = 2 ^ n by rw [pow2_eq_zpow, zpow_natCast]]
    push_cast
    ring
  rw [rne64_of_pos hq, hdiv, nearestEven_intCast, ← hdiv]
  field_simp [(pow2_pos (expOf ((r : ℚ) * pow2 e) - 52)).ne']

/-- The normalised float is not negative. -/
theorem normDiv_nonneg (w : Word) (D : Nat) : 0 ≤ normDiv w D := rne64_nonneg _

end Sys2Proof.Machine
end

