-- ==== Sys2Proof/Laws/State.lean ====
section
/-!
SUPPORT. One lemma per field per update of the state, true by rfl, so that no later proof unfolds a record update.
Raising a fault is in Laws/Ops (its effect depends on the record).
-/
namespace Sys2Proof.Machine

/-! ## setXs -/

@[simp] theorem State.setXs_xsX (s : State) (x : Word) : (s.setXs x).xsX = x := rfl
@[simp] theorem State.setXs_mt (s : State) (x : Word) : (s.setXs x).mt = s.mt := rfl
@[simp] theorem State.setXs_mtIndex (s : State) (x : Word) : (s.setXs x).mtIndex = s.mtIndex := rfl
@[simp] theorem State.setXs_pcgState (s : State) (x : Word) : (s.setXs x).pcgState = s.pcgState := rfl
@[simp] theorem State.setXs_ws (s : State) (x : Word) : (s.setXs x).ws = s.ws := rfl
@[simp] theorem State.setXs_wellIndex (s : State) (x : Word) : (s.setXs x).wellIndex = s.wellIndex := rfl
@[simp] theorem State.setXs_valid (s : State) (x : Word) : (s.setXs x).valid = s.valid := rfl
@[simp] theorem State.setXs_deck (s : State) (x : Word) : (s.setXs x).deck = s.deck := rfl
@[simp] theorem State.setXs_len (s : State) (x : Word) : (s.setXs x).len = s.len := rfl
@[simp] theorem State.setXs_fault (s : State) (x : Word) : (s.setXs x).fault = s.fault := rfl
@[simp] theorem State.setXs_finfo (s : State) (x : Word) : (s.setXs x).finfo = s.finfo := rfl
@[simp] theorem State.setXs_port (s : State) (x : Word) : (s.setXs x).port = s.port := rfl
@[simp] theorem State.setXs_pending (s : State) (x : Word) : (s.setXs x).pending = s.pending := rfl
@[simp] theorem State.setXs_freeCount (s : State) (x : Word) : (s.setXs x).freeCount = s.freeCount := rfl

/-! ## setMt -/

@[simp] theorem State.setMt_xsX (s : State) (v : MtArray) (k : Fin 625) : (s.setMt v k).xsX = s.xsX := rfl
@[simp] theorem State.setMt_mt (s : State) (v : MtArray) (k : Fin 625) : (s.setMt v k).mt = v := rfl
@[simp] theorem State.setMt_mtIndex (s : State) (v : MtArray) (k : Fin 625) : (s.setMt v k).mtIndex = k := rfl
@[simp] theorem State.setMt_pcgState (s : State) (v : MtArray) (k : Fin 625) : (s.setMt v k).pcgState = s.pcgState := rfl
@[simp] theorem State.setMt_ws (s : State) (v : MtArray) (k : Fin 625) : (s.setMt v k).ws = s.ws := rfl
@[simp] theorem State.setMt_wellIndex (s : State) (v : MtArray) (k : Fin 625) : (s.setMt v k).wellIndex = s.wellIndex := rfl
@[simp] theorem State.setMt_valid (s : State) (v : MtArray) (k : Fin 625) : (s.setMt v k).valid = s.valid := rfl
@[simp] theorem State.setMt_deck (s : State) (v : MtArray) (k : Fin 625) : (s.setMt v k).deck = s.deck := rfl
@[simp] theorem State.setMt_len (s : State) (v : MtArray) (k : Fin 625) : (s.setMt v k).len = s.len := rfl
@[simp] theorem State.setMt_fault (s : State) (v : MtArray) (k : Fin 625) : (s.setMt v k).fault = s.fault := rfl
@[simp] theorem State.setMt_finfo (s : State) (v : MtArray) (k : Fin 625) : (s.setMt v k).finfo = s.finfo := rfl
@[simp] theorem State.setMt_port (s : State) (v : MtArray) (k : Fin 625) : (s.setMt v k).port = s.port := rfl
@[simp] theorem State.setMt_pending (s : State) (v : MtArray) (k : Fin 625) : (s.setMt v k).pending = s.pending := rfl
@[simp] theorem State.setMt_freeCount (s : State) (v : MtArray) (k : Fin 625) : (s.setMt v k).freeCount = s.freeCount := rfl

/-! ## setPcg -/

@[simp] theorem State.setPcg_xsX (s : State) (x : DWord) : (s.setPcg x).xsX = s.xsX := rfl
@[simp] theorem State.setPcg_mt (s : State) (x : DWord) : (s.setPcg x).mt = s.mt := rfl
@[simp] theorem State.setPcg_mtIndex (s : State) (x : DWord) : (s.setPcg x).mtIndex = s.mtIndex := rfl
@[simp] theorem State.setPcg_pcgState (s : State) (x : DWord) : (s.setPcg x).pcgState = x := rfl
@[simp] theorem State.setPcg_ws (s : State) (x : DWord) : (s.setPcg x).ws = s.ws := rfl
@[simp] theorem State.setPcg_wellIndex (s : State) (x : DWord) : (s.setPcg x).wellIndex = s.wellIndex := rfl
@[simp] theorem State.setPcg_valid (s : State) (x : DWord) : (s.setPcg x).valid = s.valid := rfl
@[simp] theorem State.setPcg_deck (s : State) (x : DWord) : (s.setPcg x).deck = s.deck := rfl
@[simp] theorem State.setPcg_len (s : State) (x : DWord) : (s.setPcg x).len = s.len := rfl
@[simp] theorem State.setPcg_fault (s : State) (x : DWord) : (s.setPcg x).fault = s.fault := rfl
@[simp] theorem State.setPcg_finfo (s : State) (x : DWord) : (s.setPcg x).finfo = s.finfo := rfl
@[simp] theorem State.setPcg_port (s : State) (x : DWord) : (s.setPcg x).port = s.port := rfl
@[simp] theorem State.setPcg_pending (s : State) (x : DWord) : (s.setPcg x).pending = s.pending := rfl
@[simp] theorem State.setPcg_freeCount (s : State) (x : DWord) : (s.setPcg x).freeCount = s.freeCount := rfl

/-! ## setWell -/

@[simp] theorem State.setWell_xsX (s : State) (v : WellArray) (k : Fin 16) : (s.setWell v k).xsX = s.xsX := rfl
@[simp] theorem State.setWell_mt (s : State) (v : WellArray) (k : Fin 16) : (s.setWell v k).mt = s.mt := rfl
@[simp] theorem State.setWell_mtIndex (s : State) (v : WellArray) (k : Fin 16) : (s.setWell v k).mtIndex = s.mtIndex := rfl
@[simp] theorem State.setWell_pcgState (s : State) (v : WellArray) (k : Fin 16) : (s.setWell v k).pcgState = s.pcgState := rfl
@[simp] theorem State.setWell_ws (s : State) (v : WellArray) (k : Fin 16) : (s.setWell v k).ws = v := rfl
@[simp] theorem State.setWell_wellIndex (s : State) (v : WellArray) (k : Fin 16) : (s.setWell v k).wellIndex = k := rfl
@[simp] theorem State.setWell_valid (s : State) (v : WellArray) (k : Fin 16) : (s.setWell v k).valid = s.valid := rfl
@[simp] theorem State.setWell_deck (s : State) (v : WellArray) (k : Fin 16) : (s.setWell v k).deck = s.deck := rfl
@[simp] theorem State.setWell_len (s : State) (v : WellArray) (k : Fin 16) : (s.setWell v k).len = s.len := rfl
@[simp] theorem State.setWell_fault (s : State) (v : WellArray) (k : Fin 16) : (s.setWell v k).fault = s.fault := rfl
@[simp] theorem State.setWell_finfo (s : State) (v : WellArray) (k : Fin 16) : (s.setWell v k).finfo = s.finfo := rfl
@[simp] theorem State.setWell_port (s : State) (v : WellArray) (k : Fin 16) : (s.setWell v k).port = s.port := rfl
@[simp] theorem State.setWell_pending (s : State) (v : WellArray) (k : Fin 16) : (s.setWell v k).pending = s.pending := rfl
@[simp] theorem State.setWell_freeCount (s : State) (v : WellArray) (k : Fin 16) : (s.setWell v k).freeCount = s.freeCount := rfl

/-! ## construct -/

@[simp] theorem State.construct_xsX (s : State) (a : GenUnit) : (s.construct a).xsX = s.xsX := rfl
@[simp] theorem State.construct_mt (s : State) (a : GenUnit) : (s.construct a).mt = s.mt := rfl
@[simp] theorem State.construct_mtIndex (s : State) (a : GenUnit) : (s.construct a).mtIndex = s.mtIndex := rfl
@[simp] theorem State.construct_pcgState (s : State) (a : GenUnit) : (s.construct a).pcgState = s.pcgState := rfl
@[simp] theorem State.construct_ws (s : State) (a : GenUnit) : (s.construct a).ws = s.ws := rfl
@[simp] theorem State.construct_wellIndex (s : State) (a : GenUnit) : (s.construct a).wellIndex = s.wellIndex := rfl
@[simp] theorem State.construct_valid (s : State) (a : GenUnit) : (s.construct a).valid = s.valid.construct a := rfl
@[simp] theorem State.construct_deck (s : State) (a : GenUnit) : (s.construct a).deck = s.deck := rfl
@[simp] theorem State.construct_len (s : State) (a : GenUnit) : (s.construct a).len = s.len := rfl
@[simp] theorem State.construct_fault (s : State) (a : GenUnit) : (s.construct a).fault = s.fault := rfl
@[simp] theorem State.construct_finfo (s : State) (a : GenUnit) : (s.construct a).finfo = s.finfo := rfl
@[simp] theorem State.construct_port (s : State) (a : GenUnit) : (s.construct a).port = s.port := rfl
@[simp] theorem State.construct_pending (s : State) (a : GenUnit) : (s.construct a).pending = s.pending := rfl
@[simp] theorem State.construct_freeCount (s : State) (a : GenUnit) : (s.construct a).freeCount = s.freeCount := rfl

/-! ## setLen -/

@[simp] theorem State.setLen_xsX (s : State) (n : BitVec 16) : (s.setLen n).xsX = s.xsX := rfl
@[simp] theorem State.setLen_mt (s : State) (n : BitVec 16) : (s.setLen n).mt = s.mt := rfl
@[simp] theorem State.setLen_mtIndex (s : State) (n : BitVec 16) : (s.setLen n).mtIndex = s.mtIndex := rfl
@[simp] theorem State.setLen_pcgState (s : State) (n : BitVec 16) : (s.setLen n).pcgState = s.pcgState := rfl
@[simp] theorem State.setLen_ws (s : State) (n : BitVec 16) : (s.setLen n).ws = s.ws := rfl
@[simp] theorem State.setLen_wellIndex (s : State) (n : BitVec 16) : (s.setLen n).wellIndex = s.wellIndex := rfl
@[simp] theorem State.setLen_valid (s : State) (n : BitVec 16) : (s.setLen n).valid = s.valid := rfl
@[simp] theorem State.setLen_deck (s : State) (n : BitVec 16) : (s.setLen n).deck = s.deck := rfl
@[simp] theorem State.setLen_len (s : State) (n : BitVec 16) : (s.setLen n).len = n := rfl
@[simp] theorem State.setLen_fault (s : State) (n : BitVec 16) : (s.setLen n).fault = s.fault := rfl
@[simp] theorem State.setLen_finfo (s : State) (n : BitVec 16) : (s.setLen n).finfo = s.finfo := rfl
@[simp] theorem State.setLen_port (s : State) (n : BitVec 16) : (s.setLen n).port = s.port := rfl
@[simp] theorem State.setLen_pending (s : State) (n : BitVec 16) : (s.setLen n).pending = s.pending := rfl
@[simp] theorem State.setLen_freeCount (s : State) (n : BitVec 16) : (s.setLen n).freeCount = s.freeCount := rfl

/-! ## takeFree -/

@[simp] theorem State.takeFree_xsX (s : State) : s.takeFree.xsX = s.xsX := rfl
@[simp] theorem State.takeFree_mt (s : State) : s.takeFree.mt = s.mt := rfl
@[simp] theorem State.takeFree_mtIndex (s : State) : s.takeFree.mtIndex = s.mtIndex := rfl
@[simp] theorem State.takeFree_pcgState (s : State) : s.takeFree.pcgState = s.pcgState := rfl
@[simp] theorem State.takeFree_ws (s : State) : s.takeFree.ws = s.ws := rfl
@[simp] theorem State.takeFree_wellIndex (s : State) : s.takeFree.wellIndex = s.wellIndex := rfl
@[simp] theorem State.takeFree_valid (s : State) : s.takeFree.valid = s.valid := rfl
@[simp] theorem State.takeFree_deck (s : State) : s.takeFree.deck = s.deck := rfl
@[simp] theorem State.takeFree_len (s : State) : s.takeFree.len = s.len := rfl
@[simp] theorem State.takeFree_fault (s : State) : s.takeFree.fault = s.fault := rfl
@[simp] theorem State.takeFree_finfo (s : State) : s.takeFree.finfo = s.finfo := rfl
@[simp] theorem State.takeFree_port (s : State) : s.takeFree.port = s.port := rfl
@[simp] theorem State.takeFree_pending (s : State) : s.takeFree.pending = s.pending := rfl
@[simp] theorem State.takeFree_freeCount (s : State) : s.takeFree.freeCount = s.freeCount + 1 := rfl

/-! ## writeElement -/

@[simp] theorem State.writeElement_xsX (s : State) (k : Nat) (v : Word) : (s.writeElement k v).xsX = s.xsX := rfl
@[simp] theorem State.writeElement_mt (s : State) (k : Nat) (v : Word) : (s.writeElement k v).mt = s.mt := rfl
@[simp] theorem State.writeElement_mtIndex (s : State) (k : Nat) (v : Word) : (s.writeElement k v).mtIndex = s.mtIndex := rfl
@[simp] theorem State.writeElement_pcgState (s : State) (k : Nat) (v : Word) : (s.writeElement k v).pcgState = s.pcgState := rfl
@[simp] theorem State.writeElement_ws (s : State) (k : Nat) (v : Word) : (s.writeElement k v).ws = s.ws := rfl
@[simp] theorem State.writeElement_wellIndex (s : State) (k : Nat) (v : Word) : (s.writeElement k v).wellIndex = s.wellIndex := rfl
@[simp] theorem State.writeElement_valid (s : State) (k : Nat) (v : Word) : (s.writeElement k v).valid = s.valid := rfl
@[simp] theorem State.writeElement_deck (s : State) (k : Nat) (v : Word) : (s.writeElement k v).deck = Memory.write s.deck k v := rfl
@[simp] theorem State.writeElement_len (s : State) (k : Nat) (v : Word) : (s.writeElement k v).len = s.len := rfl
@[simp] theorem State.writeElement_fault (s : State) (k : Nat) (v : Word) : (s.writeElement k v).fault = s.fault := rfl
@[simp] theorem State.writeElement_finfo (s : State) (k : Nat) (v : Word) : (s.writeElement k v).finfo = s.finfo := rfl
@[simp] theorem State.writeElement_port (s : State) (k : Nat) (v : Word) : (s.writeElement k v).port = s.port := rfl
@[simp] theorem State.writeElement_pending (s : State) (k : Nat) (v : Word) : (s.writeElement k v).pending = s.pending := rfl
@[simp] theorem State.writeElement_freeCount (s : State) (k : Nat) (v : Word) : (s.writeElement k v).freeCount = s.freeCount := rfl

/-! ## respond -/

@[simp] theorem State.respond_xsX (s : State) (d : DWord) : (s.respond d).xsX = s.xsX := rfl
@[simp] theorem State.respond_mt (s : State) (d : DWord) : (s.respond d).mt = s.mt := rfl
@[simp] theorem State.respond_mtIndex (s : State) (d : DWord) : (s.respond d).mtIndex = s.mtIndex := rfl
@[simp] theorem State.respond_pcgState (s : State) (d : DWord) : (s.respond d).pcgState = s.pcgState := rfl
@[simp] theorem State.respond_ws (s : State) (d : DWord) : (s.respond d).ws = s.ws := rfl
@[simp] theorem State.respond_wellIndex (s : State) (d : DWord) : (s.respond d).wellIndex = s.wellIndex := rfl
@[simp] theorem State.respond_valid (s : State) (d : DWord) : (s.respond d).valid = s.valid := rfl
@[simp] theorem State.respond_deck (s : State) (d : DWord) : (s.respond d).deck = s.deck := rfl
@[simp] theorem State.respond_len (s : State) (d : DWord) : (s.respond d).len = s.len := rfl
@[simp] theorem State.respond_fault (s : State) (d : DWord) : (s.respond d).fault = s.fault := rfl
@[simp] theorem State.respond_finfo (s : State) (d : DWord) : (s.respond d).finfo = s.finfo := rfl
@[simp] theorem State.respond_port (s : State) (d : DWord) : (s.respond d).port = { s.port with rdata := d, faultOut := 0#4 } := rfl
@[simp] theorem State.respond_pending (s : State) (d : DWord) : (s.respond d).pending = s.pending := rfl
@[simp] theorem State.respond_freeCount (s : State) (d : DWord) : (s.respond d).freeCount = s.freeCount := rfl

/-! ## present -/

@[simp] theorem State.present_xsX (s : State) (t : Transaction) (r : List Event) : (s.present t r).xsX = s.xsX := rfl
@[simp] theorem State.present_mt (s : State) (t : Transaction) (r : List Event) : (s.present t r).mt = s.mt := rfl
@[simp] theorem State.present_mtIndex (s : State) (t : Transaction) (r : List Event) : (s.present t r).mtIndex = s.mtIndex := rfl
@[simp] theorem State.present_pcgState (s : State) (t : Transaction) (r : List Event) : (s.present t r).pcgState = s.pcgState := rfl
@[simp] theorem State.present_ws (s : State) (t : Transaction) (r : List Event) : (s.present t r).ws = s.ws := rfl
@[simp] theorem State.present_wellIndex (s : State) (t : Transaction) (r : List Event) : (s.present t r).wellIndex = s.wellIndex := rfl
@[simp] theorem State.present_valid (s : State) (t : Transaction) (r : List Event) : (s.present t r).valid = s.valid := rfl
@[simp] theorem State.present_deck (s : State) (t : Transaction) (r : List Event) : (s.present t r).deck = s.deck := rfl
@[simp] theorem State.present_len (s : State) (t : Transaction) (r : List Event) : (s.present t r).len = s.len := rfl
@[simp] theorem State.present_fault (s : State) (t : Transaction) (r : List Event) : (s.present t r).fault = s.fault := rfl
@[simp] theorem State.present_finfo (s : State) (t : Transaction) (r : List Event) : (s.present t r).finfo = s.finfo := rfl
@[simp] theorem State.present_port (s : State) (t : Transaction) (r : List Event) : (s.present t r).port = { s.port with cmd := t.cmd, wdata := t.wdata, dfltSeed := t.dfltSeed } := rfl
@[simp] theorem State.present_pending (s : State) (t : Transaction) (r : List Event) : (s.present t r).pending = r := rfl
@[simp] theorem State.present_freeCount (s : State) (t : Transaction) (r : List Event) : (s.present t r).freeCount = s.freeCount := rfl

/-! ## setPending -/

@[simp] theorem State.setPending_xsX (s : State) (r : List Event) : (s.setPending r).xsX = s.xsX := rfl
@[simp] theorem State.setPending_mt (s : State) (r : List Event) : (s.setPending r).mt = s.mt := rfl
@[simp] theorem State.setPending_mtIndex (s : State) (r : List Event) : (s.setPending r).mtIndex = s.mtIndex := rfl
@[simp] theorem State.setPending_pcgState (s : State) (r : List Event) : (s.setPending r).pcgState = s.pcgState := rfl
@[simp] theorem State.setPending_ws (s : State) (r : List Event) : (s.setPending r).ws = s.ws := rfl
@[simp] theorem State.setPending_wellIndex (s : State) (r : List Event) : (s.setPending r).wellIndex = s.wellIndex := rfl
@[simp] theorem State.setPending_valid (s : State) (r : List Event) : (s.setPending r).valid = s.valid := rfl
@[simp] theorem State.setPending_deck (s : State) (r : List Event) : (s.setPending r).deck = s.deck := rfl
@[simp] theorem State.setPending_len (s : State) (r : List Event) : (s.setPending r).len = s.len := rfl
@[simp] theorem State.setPending_fault (s : State) (r : List Event) : (s.setPending r).fault = s.fault := rfl
@[simp] theorem State.setPending_finfo (s : State) (r : List Event) : (s.setPending r).finfo = s.finfo := rfl
@[simp] theorem State.setPending_port (s : State) (r : List Event) : (s.setPending r).port = s.port := rfl
@[simp] theorem State.setPending_pending (s : State) (r : List Event) : (s.setPending r).pending = r := rfl
@[simp] theorem State.setPending_freeCount (s : State) (r : List Event) : (s.setPending r).freeCount = s.freeCount := rfl

/-! ## enterReset -/

@[simp] theorem State.enterReset_xsX (s : State) : s.enterReset.xsX = Config.freeXs s.freeCount := rfl
@[simp] theorem State.enterReset_mt (s : State) : s.enterReset.mt = Vector.ofFn (Config.freeMt s.freeCount) := rfl
@[simp] theorem State.enterReset_mtIndex (s : State) : s.enterReset.mtIndex = Config.freeMtIndex s.freeCount := rfl
@[simp] theorem State.enterReset_pcgState (s : State) : s.enterReset.pcgState = Config.freePcg s.freeCount := rfl
@[simp] theorem State.enterReset_ws (s : State) : s.enterReset.ws = Vector.ofFn (Config.freeWs s.freeCount) := rfl
@[simp] theorem State.enterReset_wellIndex (s : State) : s.enterReset.wellIndex = Config.freeWellIndex s.freeCount := rfl
@[simp] theorem State.enterReset_valid (s : State) : s.enterReset.valid = ValidBits.none := rfl
@[simp] theorem State.enterReset_deck (s : State) : s.enterReset.deck = [] := rfl
@[simp] theorem State.enterReset_len (s : State) : s.enterReset.len = 0#16 := rfl
@[simp] theorem State.enterReset_fault (s : State) : s.enterReset.fault = 0#4 := rfl
@[simp] theorem State.enterReset_finfo (s : State) : s.enterReset.finfo = 0#64 := rfl
@[simp] theorem State.enterReset_port (s : State) : s.enterReset.port = s.port := rfl
@[simp] theorem State.enterReset_pending (s : State) : s.enterReset.pending = s.pending := rfl
@[simp] theorem State.enterReset_freeCount (s : State) : s.enterReset.freeCount = s.freeCount + 1 := rfl

end Sys2Proof.Machine
end

