-- ==== Sys2Proof/Laws/Memory.lean ====
section
/-!
SUPPORT. The laws of the deck memory: a read after a write, and that a write keeps the canonical form.
-/
namespace Sys2Proof.Machine

theorem Memory.lookup_write_same (m : Memory) (k : Nat) (v : Word) :
    Memory.lookup (Memory.write m k v) k = some v := by
  induction m with
  | nil => simp [Memory.write, Memory.lookup]
  | cons c m ih =>
    simp only [Memory.write]
    split
    · simp [Memory.lookup]
    · split
      · simp [Memory.lookup]
      · rename_i hne
        simp [Memory.lookup, Ne.symm hne, ih]

theorem Memory.lookup_write_ne (m : Memory) {k n : Nat} (v : Word) (h : n ≠ k) :
    Memory.lookup (Memory.write m k v) n = Memory.lookup m n := by
  induction m with
  | nil => simp [Memory.write, Memory.lookup, Ne.symm h]
  | cons c m ih =>
    simp only [Memory.write]
    split
    · simp [Memory.lookup, Ne.symm h]
    · split
      · rename_i he
        have : c.1 ≠ n := fun hc => h (by rw [← hc, he])
        simp [Memory.lookup, Ne.symm h, this]
      · simp only [Memory.lookup, ih]

/-- Read after write, both cases. -/
theorem Memory.lookup_write (m : Memory) (k n : Nat) (v : Word) :
    Memory.lookup (Memory.write m k v) n = if n = k then some v else Memory.lookup m n := by
  split
  · next h => rw [h, Memory.lookup_write_same]
  · next h => exact Memory.lookup_write_ne m v h

/-- A cell of the written memory is the written one or an old one. -/
theorem Memory.mem_write {m : Memory} {k : Nat} {v : Word} {c : Nat × Word}
    (h : c ∈ Memory.write m k v) : c = (k, v) ∨ c ∈ m := by
  induction m with
  | nil => simpa [Memory.write] using h
  | cons d m ih =>
    simp only [Memory.write] at h
    split at h
    · simpa using h
    · split at h
      · rcases List.mem_cons.1 h with h | h
        · exact .inl h
        · exact .inr (List.mem_cons_of_mem _ h)
      · rcases List.mem_cons.1 h with h | h
        · exact .inr (h ▸ List.mem_cons_self)
        · rcases ih h with h | h
          · exact .inl h
          · exact .inr (List.mem_cons_of_mem _ h)

/-- A write inside the deck space keeps the canonical form. -/
theorem Memory.wf_write {m : Memory} {k : Nat} (v : Word) (h : Memory.wf m) (hk : k < Config.deckMax) :
    Memory.wf (Memory.write m k v) := by
  refine ⟨?_, fun c hc => ?_⟩
  · obtain ⟨hp, -⟩ := h
    induction m with
    | nil => simp [Memory.write]
    | cons d m ih =>
      obtain ⟨hd, hm⟩ := List.pairwise_cons.1 hp
      simp only [Memory.write]
      split
      · next hlt =>
        refine List.pairwise_cons.2 ⟨fun c hc => ?_, hp⟩
        rcases List.mem_cons.1 hc with rfl | hc
        · exact hlt
        · exact Nat.lt_trans hlt (hd c hc)
      · split
        · next he => exact List.pairwise_cons.2 ⟨fun c hc => he ▸ hd c hc, hm⟩
        · next hge hne =>
          refine List.pairwise_cons.2 ⟨fun c hc => ?_, ih hm⟩
          rcases Memory.mem_write hc with rfl | hc
          · exact Nat.lt_of_le_of_ne (Nat.le_of_not_lt hge) (Ne.symm hne)
          · exact hd c hc
  · rcases Memory.mem_write hc with rfl | hc
    · exact hk
    · exact h.2 c hc

theorem Memory.wf_nil : Memory.wf [] := ⟨List.Pairwise.nil, fun _ h => absurd h List.not_mem_nil⟩

/-- Reset memory has the canonical form. -/
theorem Memory.wf_reset : Memory.wf State.reset.deck := Memory.wf_nil

/-- In a canonical memory no element is listed at or above DECK_MAX. -/
theorem Memory.lookup_eq_none_of_ge {m : Memory} (h : Memory.wf m) {k : Nat} (hk : Config.deckMax ≤ k) :
    Memory.lookup m k = none := by
  have key : ∀ l : Memory, (∀ c ∈ l, c.1 < Config.deckMax) → Memory.lookup l k = none := by
    intro l
    induction l with
    | nil => intro _; rfl
    | cons c l ih =>
      intro hl
      have hc : c.1 < Config.deckMax := hl c List.mem_cons_self
      have hne : c.1 ≠ k := by omega
      simp only [Memory.lookup, hne, if_false]
      exact ih fun d hd => hl d (List.mem_cons_of_mem _ hd)
  exact key m h.2

/-- DECK_MAX is at least 1 (R5). -/
theorem Config.deckMax_pos : 1 ≤ Config.deckMax := Nat.le_add_left 1 _

/-- DECK_MAX is at most 65535 (R5). -/
theorem Config.deckMax_le : Config.deckMax ≤ 65535 := by
  have := Config.deckLast.isLt
  unfold Config.deckMax
  omega

end Sys2Proof.Machine
end

