-- ==== Sys2Proof/Laws/Ops.lean ====
section
/-!
SUPPORT. What each shared operation can do, said once: reading and swapping elements, raising a fault, one draw.
-/
namespace Sys2Proof.Machine

/-! ## Another deck -/

@[simp] theorem State.withDeck_xsX (s : State) (m : Memory) (n : Nat) : (s.withDeck m n).xsX = s.xsX := rfl
@[simp] theorem State.withDeck_mt (s : State) (m : Memory) (n : Nat) : (s.withDeck m n).mt = s.mt := rfl
@[simp] theorem State.withDeck_mtIndex (s : State) (m : Memory) (n : Nat) : (s.withDeck m n).mtIndex = s.mtIndex := rfl
@[simp] theorem State.withDeck_pcgState (s : State) (m : Memory) (n : Nat) : (s.withDeck m n).pcgState = s.pcgState := rfl
@[simp] theorem State.withDeck_ws (s : State) (m : Memory) (n : Nat) : (s.withDeck m n).ws = s.ws := rfl
@[simp] theorem State.withDeck_wellIndex (s : State) (m : Memory) (n : Nat) : (s.withDeck m n).wellIndex = s.wellIndex := rfl
@[simp] theorem State.withDeck_valid (s : State) (m : Memory) (n : Nat) : (s.withDeck m n).valid = s.valid := rfl
@[simp] theorem State.withDeck_deck (s : State) (m : Memory) (n : Nat) : (s.withDeck m n).deck = m := rfl
@[simp] theorem State.withDeck_len (s : State) (m : Memory) (n : Nat) : (s.withDeck m n).len = s.len := rfl
@[simp] theorem State.withDeck_fault (s : State) (m : Memory) (n : Nat) : (s.withDeck m n).fault = s.fault := rfl
@[simp] theorem State.withDeck_finfo (s : State) (m : Memory) (n : Nat) : (s.withDeck m n).finfo = s.finfo := rfl
@[simp] theorem State.withDeck_port (s : State) (m : Memory) (n : Nat) : (s.withDeck m n).port = s.port := rfl
@[simp] theorem State.withDeck_pending (s : State) (m : Memory) (n : Nat) : (s.withDeck m n).pending = s.pending := rfl
@[simp] theorem State.withDeck_freeCount (s : State) (m : Memory) (n : Nat) : (s.withDeck m n).freeCount = n := rfl

@[simp] theorem State.withDeck_self (s : State) : s.withDeck s.deck s.freeCount = s := rfl

/-! ## Reading and swapping elements -/

/-- A read changes nothing but the free-value counter, and that only where no element was written. -/
theorem State.readElement_cases (s : State) (k : Nat) :
    (∃ v, s.view k = some v ∧ s.readElement k = (v, s)) ∨
    (s.view k = none ∧ s.readElement k = (Config.freeElement s.freeCount, s.takeFree)) := by
  unfold State.readElement State.view
  cases h : Memory.lookup s.deck k with
  | some v => exact .inl ⟨v, rfl, rfl⟩
  | none => exact .inr ⟨rfl, rfl⟩

/-- A written element reads as what was written, and the read changes no state (R53). -/
theorem State.readElement_of_view {s : State} {k : Nat} {v : Word} (h : s.view k = some v) :
    s.readElement k = (v, s) := by
  rcases s.readElement_cases k with ⟨w, hw, e⟩ | ⟨hn, -⟩
  · rw [e, Option.some.inj (hw.symm.trans h)]
  · rw [h] at hn; cases hn

/-- Reading keeps every field but the free-value counter. -/
theorem State.readElement_frame (s : State) (k : Nat) :
    ∃ n, s.freeCount ≤ n ∧ (s.readElement k).2 = { s with freeCount := n } := by
  rcases s.readElement_cases k with ⟨v, -, e⟩ | ⟨-, e⟩
  · exact ⟨s.freeCount, Nat.le_refl _, by rw [e]⟩
  · exact ⟨s.freeCount + 1, Nat.le_succ _, by rw [e]; rfl⟩

/-- A swap changes elements i and j and the free-value counter, and nothing else. -/
theorem State.swapElements_frame (s : State) (i j : Nat) :
    ∃ a b n, s.freeCount ≤ n ∧
      s.swapElements i j = s.withDeck (Memory.write (Memory.write s.deck i a) j b) n := by
  obtain ⟨n, hn, e⟩ := s.readElement_frame i
  obtain ⟨m, hm, e'⟩ := (s.readElement i).2.readElement_frame j
  refine ⟨((s.readElement i).2.readElement j).1, (s.readElement i).1, m, ?_, ?_⟩
  · rw [e] at hm; exact Nat.le_trans hn hm
  · simp only [State.swapElements, State.writeElement, State.withDeck, e']
    rw [e]

/-- A swap of two written elements: the sequence with the two positions exchanged, and nothing else (R156). -/
theorem State.swapElements_of_written {s : State} {i j : Nat} {v w : Word}
    (hi : s.view i = some v) (hj : s.view j = some w) :
    s.swapElements i j = { s with deck := Memory.write (Memory.write s.deck i w) j v } := by
  simp only [State.swapElements, State.readElement_of_view hi, State.readElement_of_view hj, State.writeElement]

/-- What the deck holds after a swap of two written elements. -/
theorem State.view_swapElements {s : State} {i j : Nat} {v w : Word}
    (hi : s.view i = some v) (hj : s.view j = some w) : (s.swapElements i j).view = swapView s.view i j := by
  funext k
  rw [State.swapElements_of_written hi hj]
  simp only [State.view, swapView, Memory.lookup_write]
  unfold State.view at hi hj
  by_cases hkj : k = j
  · by_cases hki : k = i
    · simp [hkj, ← hki, hj, ← hi]
    · rw [if_pos hkj, if_neg hki, if_pos hkj, hi]
  · by_cases hki : k = i
    · rw [if_neg hkj, if_pos hki, if_pos hki, hj]
    · rw [if_neg hkj, if_neg hki, if_neg hki, if_neg hkj]

/-- A swap inside the deck space keeps the memory canonical. -/
theorem State.swapElements_wf {s : State} {i j : Nat} (h : Memory.wf s.deck) (hi : i < Config.deckMax)
    (hj : j < Config.deckMax) : Memory.wf (s.swapElements i j).deck := by
  obtain ⟨a, b, n, -, e⟩ := s.swapElements_frame i j
  rw [e]
  exact Memory.wf_write b (Memory.wf_write a h hi) hj

/-! ## The invariant -/

/-- The invariant reads the deck, LEN and the fault record only. -/
theorem State.Inv_of_eq {s t : State} (h : s.Inv) (hd : t.deck = s.deck) (hl : t.len = s.len)
    (hf : t.fault = s.fault) (hi : t.finfo = s.finfo) : t.Inv := by
  unfold State.Inv State.FaultRecordOk at *
  rw [hd, hl, hf, hi]
  exact h

/-! ## Raising a fault (R190) -/

/-- The first fault since reset is recorded. -/
theorem State.raise_of_none {s : State} (h : s.fault = 0#4) (f : FaultCode) (info : DWord) :
    s.raise f info = { s with fault := f.code, finfo := info
                              port := { s.port with rdata := info, faultOut := f.code } } := by
  simp [State.raise, State.recordFault, h]

/-- A later fault leaves the record (R191). -/
theorem State.raise_of_some {s : State} (h : s.fault ≠ 0#4) (f : FaultCode) (info : DWord) :
    s.raise f info = { s with port := { s.port with rdata := info, faultOut := f.code } } := by
  simp only [State.raise, State.recordFault, if_neg h]

/-- Raising changes only the fault record and the response. -/
theorem State.raise_frame (s : State) (f : FaultCode) (info : DWord) :
    s.raise f info = { s with fault := (s.raise f info).fault, finfo := (s.raise f info).finfo
                              port := { s.port with rdata := info, faultOut := f.code } } := by
  by_cases h : s.fault = 0#4
  · rw [State.raise_of_none h]
  · rw [State.raise_of_some h]

@[simp] theorem State.raise_port (s : State) (f : FaultCode) (info : DWord) :
    (s.raise f info).port = { s.port with rdata := info, faultOut := f.code } := by
  rw [State.raise_frame]

theorem State.raise_fault (s : State) (f : FaultCode) (info : DWord) :
    (s.raise f info).fault = if s.fault = 0#4 then f.code else s.fault := by
  by_cases h : s.fault = 0#4
  · rw [State.raise_of_none h, if_pos h]
  · rw [State.raise_of_some h, if_neg h]

theorem State.raise_finfo (s : State) (f : FaultCode) (info : DWord) :
    (s.raise f info).finfo = if s.fault = 0#4 then info else s.finfo := by
  by_cases h : s.fault = 0#4
  · rw [State.raise_of_none h, if_pos h]
  · rw [State.raise_of_some h, if_neg h]

@[simp] theorem State.raise_deck (s : State) (f : FaultCode) (info : DWord) :
    (s.raise f info).deck = s.deck := by rw [State.raise_frame]

@[simp] theorem State.raise_len (s : State) (f : FaultCode) (info : DWord) :
    (s.raise f info).len = s.len := by rw [State.raise_frame]

@[simp] theorem State.raise_valid (s : State) (f : FaultCode) (info : DWord) :
    (s.raise f info).valid = s.valid := by rw [State.raise_frame]

@[simp] theorem State.raise_pending (s : State) (f : FaultCode) (info : DWord) :
    (s.raise f info).pending = s.pending := by rw [State.raise_frame]

@[simp] theorem State.raise_freeCount (s : State) (f : FaultCode) (info : DWord) :
    (s.raise f info).freeCount = s.freeCount := by rw [State.raise_frame]

@[simp] theorem State.raise_xsX (s : State) (f : FaultCode) (info : DWord) :
    (s.raise f info).xsX = s.xsX := by rw [State.raise_frame]

@[simp] theorem State.raise_mt (s : State) (f : FaultCode) (info : DWord) :
    (s.raise f info).mt = s.mt := by rw [State.raise_frame]

@[simp] theorem State.raise_mtIndex (s : State) (f : FaultCode) (info : DWord) :
    (s.raise f info).mtIndex = s.mtIndex := by rw [State.raise_frame]

@[simp] theorem State.raise_pcgState (s : State) (f : FaultCode) (info : DWord) :
    (s.raise f info).pcgState = s.pcgState := by rw [State.raise_frame]

@[simp] theorem State.raise_ws (s : State) (f : FaultCode) (info : DWord) :
    (s.raise f info).ws = s.ws := by rw [State.raise_frame]

@[simp] theorem State.raise_wellIndex (s : State) (f : FaultCode) (info : DWord) :
    (s.raise f info).wellIndex = s.wellIndex := by rw [State.raise_frame]

/-- A code is a number from 1 to 5 (R181). -/
theorem FaultCode.code_range (f : FaultCode) : 1 ≤ f.code.toNat ∧ f.code.toNat ≤ 5 := by
  cases f <;> decide

theorem FaultCode.code_ne_zero (f : FaultCode) : f.code ≠ 0#4 := by cases f <;> decide

/-! ## One draw (R35: a draw touches its own unit only) -/

/-- What one draw can do: it writes its own unit's fields and nothing else. -/
theorem State.draw_cases (s : State) (a : GenUnit) :
    (a = .xs ∧ (s.draw a).2 = s.setXs (xsStep s.xsX)) ∨
    (a = .mt ∧ (s.draw a).2 = s.setMt (mtDraw s.mt s.mtIndex).2.1 (mtDraw s.mt s.mtIndex).2.2) ∨
    (a = .pcg ∧ (s.draw a).2 = s.setPcg (pcgNext s.pcgState)) ∨
    (a = .well ∧ (s.draw a).2 = s.setWell (wellDraw s.ws s.wellIndex).2.1 (wellDraw s.ws s.wellIndex).2.2) := by
  cases a
  · exact .inl ⟨rfl, rfl⟩
  · exact .inr (.inl ⟨rfl, rfl⟩)
  · exact .inr (.inr (.inl ⟨rfl, rfl⟩))
  · exact .inr (.inr (.inr ⟨rfl, rfl⟩))

@[simp] theorem State.draw_deck (s : State) (a : GenUnit) : (s.draw a).2.deck = s.deck := by
  cases a <;> rfl
@[simp] theorem State.draw_len (s : State) (a : GenUnit) : (s.draw a).2.len = s.len := by
  cases a <;> rfl
@[simp] theorem State.draw_valid (s : State) (a : GenUnit) : (s.draw a).2.valid = s.valid := by
  cases a <;> rfl
@[simp] theorem State.draw_fault (s : State) (a : GenUnit) : (s.draw a).2.fault = s.fault := by
  cases a <;> rfl
@[simp] theorem State.draw_finfo (s : State) (a : GenUnit) : (s.draw a).2.finfo = s.finfo := by
  cases a <;> rfl
@[simp] theorem State.draw_port (s : State) (a : GenUnit) : (s.draw a).2.port = s.port := by
  cases a <;> rfl
@[simp] theorem State.draw_pending (s : State) (a : GenUnit) : (s.draw a).2.pending = s.pending := by
  cases a <;> rfl
@[simp] theorem State.draw_freeCount (s : State) (a : GenUnit) : (s.draw a).2.freeCount = s.freeCount := by
  cases a <;> rfl

/-- A draw does not see the deck or the free-value counter. -/
theorem State.draw_with_deck (s : State) (a : GenUnit) (m : Memory) (n : Nat) :
    (s.withDeck m n).draw a = ((s.draw a).1, (s.draw a).2.withDeck m n) := by
  cases a <;> rfl

/-- `draw_float` advances the unit exactly as a draw does (R153). -/
@[simp] theorem State.drawFloat_snd (s : State) (a : GenUnit) : (s.drawFloat a).2 = (s.draw a).2 := rfl

@[simp] theorem State.drawFloat_fst (s : State) (a : GenUnit) :
    (s.drawFloat a).1 = normDiv (s.draw a).1 (unitDiv a) := rfl

/-! ## Iterated draws -/

theorem State.drawN_succ (s : State) (a : GenUnit) (n : Nat) :
    State.drawN a (n + 1) s = (State.drawN a n s |>.draw a).2 := by
  induction n generalizing s with
  | zero => rfl
  | succ n ih => exact ih (s.draw a).2

/-- Word k + 1 of a stream is word k after one draw. -/
theorem State.sample_succ (s : State) (a : GenUnit) (k : Nat) : s.sample a (k + 1) = (s.draw a).2.sample a k := rfl

theorem State.sample_zero (s : State) (a : GenUnit) : s.sample a 0 = (s.draw a).1 := rfl

/-- Draws do not see the deck or the free-value counter. -/
theorem State.drawN_with_deck (s : State) (a : GenUnit) (m : Memory) (n k : Nat) :
    State.drawN a k (s.withDeck m n) = (State.drawN a k s).withDeck m n := by
  induction k generalizing s with
  | zero => rfl
  | succ k ih => simp only [State.drawN, State.draw_with_deck, ih]

theorem State.sample_with_deck (s : State) (a : GenUnit) (m : Memory) (n k : Nat) :
    (s.withDeck m n).sample a k = s.sample a k := by
  simp only [State.sample, State.drawN_with_deck, State.draw_with_deck]

@[simp] theorem State.drawN_deck (s : State) (a : GenUnit) (n : Nat) : (State.drawN a n s).deck = s.deck := by
  induction n generalizing s with
  | zero => rfl
  | succ n ih => rw [State.drawN, ih, State.draw_deck]

@[simp] theorem State.drawN_len (s : State) (a : GenUnit) (n : Nat) : (State.drawN a n s).len = s.len := by
  induction n generalizing s with
  | zero => rfl
  | succ n ih => rw [State.drawN, ih, State.draw_len]

@[simp] theorem State.drawN_valid (s : State) (a : GenUnit) (n : Nat) : (State.drawN a n s).valid = s.valid := by
  induction n generalizing s with
  | zero => rfl
  | succ n ih => rw [State.drawN, ih, State.draw_valid]

/-! ## What NEXTU and NEXTF share -/

/-- NEXTU of any unit: one draw answered, or NOT_CONSTRUCTED. -/
theorem State.nextWord_cases (s : State) (a : GenUnit) :
    (s.valid.get a = true ∧ s.nextWord a = (s.draw a).2.completed ((s.draw a).1.setWidth 64)) ∨
    (s.valid.get a = false ∧ s.nextWord a = s.raiseCmd .notConstructed) := by
  unfold State.nextWord
  split
  · exact .inl ⟨‹_›, rfl⟩
  · exact .inr ⟨by simpa using ‹¬ s.valid.get a = true›, rfl⟩

/-- NEXTF of any unit: the same draw, its Sample normalised by the unit's divisor, or NOT_CONSTRUCTED. -/
theorem State.nextFloat_cases (s : State) (a : GenUnit) :
    (s.valid.get a = true ∧
      s.nextFloat a = (s.draw a).2.completed (f64bits (normDiv (s.draw a).1 (unitDiv a)))) ∨
    (s.valid.get a = false ∧ s.nextFloat a = s.raiseCmd .notConstructed) := by
  unfold State.nextFloat
  split
  · exact .inl ⟨‹_›, rfl⟩
  · exact .inr ⟨by simpa using ‹¬ s.valid.get a = true›, rfl⟩

end Sys2Proof.Machine
end

