-- ==== Sys2Proof/Laws/PerInstr.lean ====
section
/-!
SUPPORT. Statements about every instruction as syntax, one lemma per constructor: the must-be-zero field of its word
(spec/30_encoding.md R71), and that its word lies in its own row of the opcode table (R74).
-/
namespace Sys2Proof.Laws

/-- The fields of a packed word are what was packed (R71). -/
theorem packC_zero (o : BitVec 4) (a : BitVec 2) (i : BitVec 16) : cmdZero (packC o a i) = 0#10 := by
  apply BitVec.eq_of_getLsbD_eq
  intro k hk
  simp only [cmdZero, packC, BitVec.getLsbD_extractLsb', BitVec.getLsbD_append]
  have h1 : ¬ 16 + k < 16 := by omega
  simp [hk, h1]

/-- A packed word under the mask of the upper half keeps the upper half (R71). -/
theorem packC_upper (o : BitVec 4) (a : BitVec 2) (i : BitVec 16) :
    packC o a i &&& 0xFFFF0000#32 = packC o a 0#16 := by
  apply BitVec.eq_of_getLsbD_eq
  intro k hk
  have mask : (0xFFFF0000#32).getLsbD k = decide (16 ≤ k) := by
    revert k
    decide
  simp only [packC, BitVec.getLsbD_and, BitVec.getLsbD_append, mask]
  by_cases h : k < 16
  · have : ¬ 16 ≤ k := by omega
    simp [h, this]
  · have : 16 ≤ k := by omega
    simp [h, this]

namespace ZeroField

/-- The `zero` field of the instruction's word is 0 (R71). -/
def Statement (i : Instr) : Prop := cmdZero (encode i) = 0#10

theorem seedXs : Statement .seedXs := by unfold Statement; decide

theorem seedMt : Statement .seedMt := by unfold Statement; decide

theorem seedPcg : Statement .seedPcg := by unfold Statement; decide

theorem seedWell : Statement .seedWell := by unfold Statement; decide

theorem nextuXs : Statement .nextuXs := by unfold Statement; decide

theorem nextuMt : Statement .nextuMt := by unfold Statement; decide

theorem nextuPcg : Statement .nextuPcg := by unfold Statement; decide

theorem nextuWell : Statement .nextuWell := by unfold Statement; decide

theorem nextfXs : Statement .nextfXs := by unfold Statement; decide

theorem nextfMt : Statement .nextfMt := by unfold Statement; decide

theorem nextfPcg : Statement .nextfPcg := by unfold Statement; decide

theorem nextfWell : Statement .nextfWell := by unfold Statement; decide

theorem shufXs : Statement .shufXs := by unfold Statement; decide

theorem shufMt : Statement .shufMt := by unfold Statement; decide

theorem shufPcg : Statement .shufPcg := by unfold Statement; decide

theorem shufWell : Statement .shufWell := by unfold Statement; decide

theorem dklen (n : BitVec 16) : Statement (.dklen n) := packC_zero _ _ _

theorem dkwr (k : BitVec 16) : Statement (.dkwr k) := packC_zero _ _ _

theorem dkrd (k : BitVec 16) : Statement (.dkrd k) := packC_zero _ _ _

theorem rdcr (r : BitVec 16) : Statement (.rdcr r) := packC_zero _ _ _

theorem reset : Statement .reset := by unfold Statement; decide

end ZeroField

namespace TableRow

/-- The instruction's word lies in its row of the opcode table (R74). -/
def Statement (i : Instr) : Prop := encode i &&& i.rowMask = i.rowMatch

theorem seedXs : Statement .seedXs := by unfold Statement; decide

theorem seedMt : Statement .seedMt := by unfold Statement; decide

theorem seedPcg : Statement .seedPcg := by unfold Statement; decide

theorem seedWell : Statement .seedWell := by unfold Statement; decide

theorem nextuXs : Statement .nextuXs := by unfold Statement; decide

theorem nextuMt : Statement .nextuMt := by unfold Statement; decide

theorem nextuPcg : Statement .nextuPcg := by unfold Statement; decide

theorem nextuWell : Statement .nextuWell := by unfold Statement; decide

theorem nextfXs : Statement .nextfXs := by unfold Statement; decide

theorem nextfMt : Statement .nextfMt := by unfold Statement; decide

theorem nextfPcg : Statement .nextfPcg := by unfold Statement; decide

theorem nextfWell : Statement .nextfWell := by unfold Statement; decide

theorem shufXs : Statement .shufXs := by unfold Statement; decide

theorem shufMt : Statement .shufMt := by unfold Statement; decide

theorem shufPcg : Statement .shufPcg := by unfold Statement; decide

theorem shufWell : Statement .shufWell := by unfold Statement; decide

theorem dklen (n : BitVec 16) : Statement (.dklen n) := (packC_upper _ _ _).trans (by simp only [Instr.rowMatch]; decide)

theorem dkwr (k : BitVec 16) : Statement (.dkwr k) := (packC_upper _ _ _).trans (by simp only [Instr.rowMatch]; decide)

theorem dkrd (k : BitVec 16) : Statement (.dkrd k) := (packC_upper _ _ _).trans (by simp only [Instr.rowMatch]; decide)

theorem rdcr (r : BitVec 16) : Statement (.rdcr r) := (packC_upper _ _ _).trans (by simp only [Instr.rowMatch]; decide)

theorem reset : Statement .reset := by unfold Statement; decide

end TableRow

end Sys2Proof.Laws
end

