-- ==== Sys2Proof/Laws/Shuffle.lean ====
section
/-!
SUPPORT. What the loop of the shuffle engine can do, said once, and the bound of a swap index that the fault record
needs.
-/
namespace Sys2Proof.Machine

/-- One iteration of the loop, in terms of the draw (R156). -/
theorem State.shuffleFrom_succ (a : GenUnit) (i : Nat) (s : State) :
    State.shuffleFrom a (i + 1) s =
      if i + 1 < shufIndex (normDiv (s.draw a).1 (unitDiv a)) (i + 2) then
        (s.draw a).2.raise .indexRange
          (indexRangeInfo (shufIndex (normDiv (s.draw a).1 (unitDiv a)) (i + 2)) (i + 1))
      else
        State.shuffleFrom a i
          ((s.draw a).2.swapElements (i + 1) (shufIndex (normDiv (s.draw a).1 (unitDiv a)) (i + 2))) := rfl

/-- The loop ends in one of two ways: it completes after i draws, or it raises INDEX_RANGE at some position p from
1 to i after i+1-p draws. Either way only the unit, the elements up to i, the free-value counter, the response and
the fault record change, and the memory stays canonical. -/
theorem State.shuffleFrom_cases (a : GenUnit) (i : Nat) (s : State) :
    ∃ d c, s.freeCount ≤ c ∧ (i < Config.deckMax → Memory.wf s.deck → Memory.wf d) ∧
      (∀ k, i < k → Memory.lookup d k = Memory.lookup s.deck k) ∧
      ((State.shuffleFrom a i s = ((State.drawN a i s).withDeck d c).respond 0#64) ∨
        ∃ p w, 1 ≤ p ∧ p ≤ i ∧ p < shufIndex (normDiv w (unitDiv a)) (p + 1) ∧
          State.shuffleFrom a i s =
            ((State.drawN a (i + 1 - p) s).withDeck d c).raise .indexRange
              (indexRangeInfo (shufIndex (normDiv w (unitDiv a)) (p + 1)) p)) := by
  induction i generalizing s with
  | zero =>
    exact ⟨s.deck, s.freeCount, Nat.le_refl _, fun _ h => h, fun _ _ => rfl, .inl rfl⟩
  | succ i ih =>
    by_cases hj : i + 1 < shufIndex (normDiv (s.draw a).1 (unitDiv a)) (i + 2)
    · have e : State.shuffleFrom a (i + 1) s = (s.draw a).2.raise .indexRange
          (indexRangeInfo (shufIndex (normDiv (s.draw a).1 (unitDiv a)) (i + 2)) (i + 1)) := by
        rw [State.shuffleFrom_succ, if_pos hj]
      rw [e]
      refine ⟨s.deck, s.freeCount, Nat.le_refl _, fun _ h => h, fun _ _ => rfl,
        .inr ⟨i + 1, (s.draw a).1, by omega, by omega, hj, ?_⟩⟩
      have h1 : i + 1 + 1 - (i + 1) = 1 := by omega
      have h2 : (State.drawN a 1 s).withDeck s.deck s.freeCount = (s.draw a).2 := by
        have := congrArg Prod.snd (s.draw_with_deck a s.deck s.freeCount)
        exact this.symm
      rw [h1, h2]
    · have e : State.shuffleFrom a (i + 1) s = State.shuffleFrom a i ((s.draw a).2.swapElements (i + 1)
          (shufIndex (normDiv (s.draw a).1 (unitDiv a)) (i + 2))) := by
        rw [State.shuffleFrom_succ, if_neg hj]
      rw [e]
      obtain ⟨u, v, n, hn, hs⟩ := (s.draw a).2.swapElements_frame (i + 1) (shufIndex (normDiv (s.draw a).1 (unitDiv a)) (i + 2))
      obtain ⟨d, c, hc, hwf, hk, hcase⟩ := ih ((s.draw a).2.swapElements (i + 1) (shufIndex (normDiv (s.draw a).1 (unitDiv a)) (i + 2)))
      have key : ∀ k, (State.drawN a k ((s.draw a).2.swapElements (i + 1)
            (shufIndex (normDiv (s.draw a).1 (unitDiv a)) (i + 2)))).withDeck d c =
          (State.drawN a (k + 1) s).withDeck d c := by
        intro k
        rw [hs, State.drawN_with_deck]
        rfl
      refine ⟨d, c, ?_, ?_, ?_, ?_⟩
      · rw [hs] at hc
        exact Nat.le_trans (by simpa using hn) hc
      · intro hi hm
        refine hwf (by omega) (State.swapElements_wf ?_ hi (by omega))
        simpa using hm
      · intro k hki
        rw [hk k (by omega), hs]
        rw [State.withDeck_deck, Memory.lookup_write_ne _ _ (by omega), Memory.lookup_write_ne _ _ (by omega), State.draw_deck]
      · rcases hcase with h | ⟨p, w, h1, h2, h3, h⟩
        · exact .inl (by rw [h, key])
        · refine .inr ⟨p, w, h1, by omega, h3, ?_⟩
          rw [h, key]
          congr 3
          omega

end Sys2Proof.Machine
end

