-- ==== Sys2Proof/Laws/Step.lean ====
section
/-!
SUPPORT. What one step can do, said once (spec/10_state.md R34, spec/30_encoding.md R78,
spec/70_reset_and_hazards.md R200).
-/
namespace Sys2Proof.Machine

/-- A step waits, or runs the decoded instruction, or answers an illegal word, or resets. -/
theorem step_cases (s : State) :
    (s.pending = [] ∧ step s = .next s) ∨
    (∃ t rest i, s.pending = .command t :: rest ∧ decode t.cmd = .ok i ∧ step s = exec i (s.present t rest)) ∨
    (∃ t rest e, s.pending = .command t :: rest ∧ decode t.cmd = .error e ∧
      step s = .next ((s.present t rest).raiseCmd .illegalCmd)) ∨
    (∃ rest, s.pending = .hardReset :: rest ∧ step s = .next (s.setPending rest).hardReset) ∨
    (∃ t rest, s.pending = .aborted t :: rest ∧ step s = .next (s.present t rest).hardReset) := by
  unfold step fetch
  match hp : s.pending with
  | [] => exact .inl ⟨rfl, rfl⟩
  | .command t :: rest =>
    have hc : (s.present t rest).port.cmd = t.cmd := rfl
    simp only [decodePresented, hc]
    match hd : decode t.cmd with
    | .ok i => exact .inr (.inl ⟨t, rest, i, rfl, hd, rfl⟩)
    | .error e => exact .inr (.inr (.inl ⟨t, rest, e, rfl, hd, rfl⟩))
  | .hardReset :: rest => exact .inr (.inr (.inr (.inl ⟨rest, rfl, rfl⟩)))
  | .aborted t :: rest => exact .inr (.inr (.inr (.inr ⟨t, rest, rfl, rfl⟩)))

end Sys2Proof.Machine
end

