-- ==== Sys2Proof/Tests/Slice0.lean ====
section
/-!
SUPPORT. The model's own tests. Expected values come from spec/95_test_vectors.md or from the worked examples of the
instruction rules, named at each test. Last come the witnesses: states and operands that meet the hypotheses of the
statements in Certificates/Slice0/Obligations.
-/
namespace Sys2Proof.Tests
open Sys2Proof.Machine

-- One theorem after another: many kernel evaluations at once would each hold a thread of their own.
set_option Elab.async false

/-! ## Small states -/

/-- Reset, with units a constructed. -/
def ready (a : GenUnit) : State := State.reset.construct a

/-- Unit XS constructed with state word x. -/
def xsState (x : Word) : State := (ready .xs).setXs x

/-- Unit MT constructed with seed 1 and the cursor at k. -/
def mtState (k : Fin 625) : State := (ready .mt).setMt (lcgExpand 1#32 624) k

/-- Unit PCG constructed with state x. -/
def pcgState (x : DWord) : State := (ready .pcg).setPcg x

/-- Unit WELL constructed with seed 1. -/
def wellState : State := (ready .well).setWell (lcgExpand 1#32 16) 0

/-- The state with a deck 1, 2, ..., n. -/
def withDeckOf (n : Nat) (s : State) : State :=
  { s with deck := (List.range n).map (fun k => (k, BitVec.ofNat 32 (k + 1))), len := BitVec.ofNat 16 n }

/-- The state with operand w on `wdata`, d on `dflt_seed` and c on `cmd`. -/
def withInputs (c : Word) (w : DWord) (d : Word) (s : State) : State := s.present ⟨c, w, d⟩ []

/-- A property of the next state. -/
def nextHas (o : Host.Outcome State Fault Refusal) (p : State → Bool) : Bool :=
  match o with
  | .next t => p t
  | .fault _ => false
  | .refused _ => false

/-- The response is this. -/
def answers (rdata : DWord) (fault : BitVec 4) (t : State) : Bool :=
  t.port.rdata == rdata && t.port.faultOut == fault

/-- The elements of the deck in order. -/
def elements (t : State) : List (Option Word) := (List.range t.len.toNat).map t.view

/-! ## Well-formedness -/

/-- R76: the one ill-formed instruction is RDCR of a register above 2. -/
theorem test_wf_refuses_rdcr_3 : Instr.wf (.rdcr 3#16) = false := by decide

/-- R30: RDCR of register 2 is well-formed. -/
theorem test_wf_accepts_rdcr_2 : Instr.wf (.rdcr 2#16) = true := by decide

/-! ## Decoding, words written out from R71 and R74: opc 31:28, alg 27:26, zero 25:16, imm 15:0 -/

theorem test_decode_seedXs : decode 0b00010000000000000000000000000000#32 = .ok .seedXs := by decide
theorem test_decode_seedMt : decode 0b00010100000000000000000000000000#32 = .ok .seedMt := by decide
theorem test_decode_seedPcg : decode 0b00011000000000000000000000000000#32 = .ok .seedPcg := by decide
theorem test_decode_seedWell : decode 0b00011100000000000000000000000000#32 = .ok .seedWell := by decide
theorem test_decode_nextuXs : decode 0b00100000000000000000000000000000#32 = .ok .nextuXs := by decide
theorem test_decode_nextuMt : decode 0b00100100000000000000000000000000#32 = .ok .nextuMt := by decide
theorem test_decode_nextuPcg : decode 0b00101000000000000000000000000000#32 = .ok .nextuPcg := by decide
theorem test_decode_nextuWell : decode 0b00101100000000000000000000000000#32 = .ok .nextuWell := by decide
theorem test_decode_nextfXs : decode 0b00110000000000000000000000000000#32 = .ok .nextfXs := by decide
theorem test_decode_nextfMt : decode 0b00110100000000000000000000000000#32 = .ok .nextfMt := by decide
theorem test_decode_nextfPcg : decode 0b00111000000000000000000000000000#32 = .ok .nextfPcg := by decide
theorem test_decode_nextfWell : decode 0b00111100000000000000000000000000#32 = .ok .nextfWell := by decide
theorem test_decode_shufXs : decode 0b01000000000000000000000000000000#32 = .ok .shufXs := by decide
theorem test_decode_shufMt : decode 0b01000100000000000000000000000000#32 = .ok .shufMt := by decide
theorem test_decode_shufPcg : decode 0b01001000000000000000000000000000#32 = .ok .shufPcg := by decide
theorem test_decode_shufWell : decode 0b01001100000000000000000000000000#32 = .ok .shufWell := by decide
theorem test_decode_dklen : decode 0b01010000000000000000000000000101#32 = .ok (.dklen 5#16) := by decide
theorem test_decode_dkwr : decode 0b01100000000000001111111111111111#32 = .ok (.dkwr 0xFFFF#16) := by decide
theorem test_decode_dkrd : decode 0b01110000000000000000000000000100#32 = .ok (.dkrd 4#16) := by decide
theorem test_decode_rdcr : decode 0b10000000000000000000000000000010#32 = .ok (.rdcr 2#16) := by decide
theorem test_decode_reset : decode 0b10010000000000000000000000000000#32 = .ok .reset := by decide

/-- Section 8, decode vectors: each illegal word is rejected under its own name. -/
theorem test_decode_rejects_by_name :
    decode 0x00000000#32 = .error .reservedOpcode ∧ decode 0xA0000000#32 = .error .reservedOpcode ∧
    decode 0x10010000#32 = .error .zeroFieldSet ∧ decode 0x52000000#32 = .error .zeroFieldSet ∧
    decode 0x94000000#32 = .error .unitFieldSet ∧ decode 0x2C000001#32 = .error .immediateSet ∧
    decode 0x80000003#32 = .error .noSuchRegister := by decide

/-- The table's numbering of a row's bits is the word's own. -/
theorem test_decodeTableWord_reset : decodeTableWord 32 2415919104 = some .reset := by decide

/-! ## Xorshift32 (section 3) -/

/-- `SEED.XS 0x100000000` with dflt_seed 0x12345678: the truncated seed is zero, so it is replaced. -/
theorem test_seedXs_zero_low_half :
    nextHas (exec .seedXs (withInputs 0x10000000#32 0x100000000#64 0x12345678#32 State.reset))
      (fun t => t.xsX == 0x12345678#32 && t.valid.xs && answers 0#64 0#4 t) = true := by decide +kernel

/-- `SEED.XS 0xABCDEF0000000001`: the upper half is ignored. -/
theorem test_seedXs_truncates :
    nextHas (exec .seedXs (withInputs 0x10000000#32 0xABCDEF0000000001#64 7#32 State.reset))
      (fun t => t.xsX == 1#32) = true := by decide +kernel

/-- xs_step(1) = 0x00042021. -/
theorem test_nextuXs_from_1 :
    nextHas (exec .nextuXs (xsState 1#32)) (fun t => t.xsX == 0x42021#32 && answers 0x42021#64 0#4 t) = true := by
  decide +kernel

/-- The third word of seed 1 as a float above 1. -/
theorem test_nextfXs_above_one :
    nextHas (exec .nextfXs (xsState 0x04080601#32)) (answers 0x3FF3B99518A00000#64 0#4) = true := by decide +kernel

/-! ## Mersenne Twister (section 4) -/

/-- `SEED.MT 0x100000001` behaves as seed 1: word 2 is 0xDD5254A5. -/
theorem test_seedMt_word_2 :
    nextHas (exec .seedMt (withInputs 0x14000000#32 0x100000001#64 0#32 State.reset))
      (fun t => t.mt[2] == 0xDD5254A5#32 && t.mtIndex == 0 && t.valid.mt) = true := by decide +kernel

/-- Draw 2 after seed 1. -/
theorem test_nextuMt_draw_2 :
    nextHas (exec .nextuMt (mtState 1)) (fun t => t.mtIndex == 2 && answers 0x4C8C5834#64 0#4 t) = true := by
  decide +kernel

/-- The three words of the array of seed 1 that the twist reads for its word 0, as R112's worked example prints
them, in an array that is otherwise 0. -/
def twistExample : MtArray :=
  (((Vector.replicate 624 0#32).set 0 0x00000001#32).set 1 0x6C078966#32).set 397 0xAAB7BE29#32

/-- R112, the worked example: the new word 0. -/
theorem test_mtTwistWord_0 : mtTwistWord twistExample 0 = 0x9CB47A9A#32 := by decide +kernel

/-- Draw 1 after seed 1 as a float. -/
theorem test_nextfMt_draw_1 :
    nextHas (exec .nextfMt (mtState 0)) (fun t => t.mtIndex == 1 && answers 0x3F50002440100024#64 0#4 t) = true := by
  decide +kernel

/-! ## PCG32 (section 5) -/

/-- Seed 0x100000001: all 64 bits are the state. -/
theorem test_seedPcg_64_bits :
    nextHas (exec .seedPcg (withInputs 0x18000000#32 0x100000001#64 0#32 State.reset))
      (fun t => t.pcgState == 0x100000001#64 && t.valid.pcg) = true := by decide +kernel

/-- Draw 2 after seed 42. -/
theorem test_nextuPcg_draw_2 :
    nextHas (exec .nextuPcg (pcgState 0x7D720F6E90AA32A1#64))
      (fun t => t.pcgState == 0x741EA49820E11A8C#64 && answers 0x0C855C84#64 0#4 t) = true := by decide +kernel

/-- The largest seed: rotation by 31. -/
theorem test_nextuPcg_rotates_by_31 :
    nextHas (exec .nextuPcg (pcgState 0xFFFFFFFFFFFFFFFF#64)) (answers 0xFFF00001#64 0#4) = true := by decide +kernel

/-- Draw 2 after seed 42 as a float. -/
theorem test_nextfPcg_draw_2 :
    nextHas (exec .nextfPcg (pcgState 0x7D720F6E90AA32A1#64)) (answers 0x3FA90AB908190AB9#64 0#4) = true := by
  decide +kernel

/-! ## WELL512a-simplified (section 6) -/

/-- `SEED.WELL 1`: word 15. -/
theorem test_seedWell_word_15 :
    nextHas (exec .seedWell (withInputs 0x1C000000#32 1#64 0#32 State.reset))
      (fun t => t.ws[15] == 0x626BE9F4#32 && t.wellIndex == 0 && t.valid.well) = true := by decide +kernel

/-- Draw 1 after seed 1 returns the word at the new index. -/
theorem test_nextuWell_draw_1 :
    nextHas (exec .nextuWell wellState) (fun t => t.wellIndex == 1 && answers 0x6C078966#64 0#4 t) = true := by
  decide +kernel

/-- Draw 1 after seed 1 as a float. -/
theorem test_nextfWell_draw_1 :
    nextHas (exec .nextfWell wellState) (answers 0x3FDB01E2599B01E2#64 0#4) = true := by decide +kernel

/-- R185: an unconstructed unit. -/
theorem test_nextuMt_unconstructed :
    nextHas (exec .nextuMt (withInputs 0x24000000#32 0#64 0#32 State.reset))
      (fun t => answers 0x24000000#64 4#4 t && t.fault == 4#4 && t.finfo == 0x24000000#64) = true := by decide +kernel

/-! ## Floats and swap indexes (sections 2, 4, 7) -/

theorem test_f64bits_of_word_1 : f64bits (normDiv 1#32 Config.u32Div) = 0x3DF0000000100000#64 := by decide +kernel

theorem test_f64bits_of_largest_word :
    f64bits (normDiv 0xFFFFFFFF#32 Config.u32Div) = 0x3FF0000000000000#64 := by decide +kernel

/-- The first case where the binary64 index is one less than the exact one. -/
theorem test_shufIndex_51 : shufIndex (normDiv 2610666395#32 Config.u32Div) 51 = 30 := by decide +kernel

theorem test_shufIndex_52 : shufIndex (normDiv 2610666395#32 Config.u32Div) 52 = 31 := by decide +kernel

/-! ## Shuffles (section 7, whole shuffles) -/

/-- XS, seed 2, L = 5. -/
theorem test_shufXs_5 :
    nextHas (exec .shufXs (withDeckOf 5 (xsState 2#32)))
      (fun t => elements t == [some 3#32, some 2#32, some 4#32, some 5#32, some 1#32] && t.xsX == 0x6398B906#32
        && answers 0#64 0#4 t) = true := by decide +kernel

/-- XS, seed 1, L = 5: INDEX_RANGE at i = 2. -/
theorem test_shufXs_index_range :
    nextHas (exec .shufXs (withDeckOf 5 (xsState 1#32)))
      (fun t => elements t == [some 4#32, some 2#32, some 3#32, some 5#32, some 1#32] && t.xsX == 0x9DCCA8C5#32
        && answers 0x30002#64 5#4 t && t.fault == 5#4 && t.finfo == 0x30002#64) = true := by decide +kernel

/-- MT, seed 1, L = 5. -/
theorem test_shufMt_5 :
    nextHas (exec .shufMt (withDeckOf 5 (mtState 0)))
      (fun t => elements t == [some 5#32, some 3#32, some 4#32, some 2#32, some 1#32] && t.mtIndex == 4) = true := by
  decide +kernel

/-- PCG, seed 42, L = 5. -/
theorem test_shufPcg_5 :
    nextHas (exec .shufPcg (withDeckOf 5 (pcgState 42#64)))
      (fun t => elements t == [some 2#32, some 4#32, some 3#32, some 5#32, some 1#32]
        && t.pcgState == 0x72D362224B5457BE#64) = true := by decide +kernel

/-- WELL, seed 1, L = 4, for every matrix constant. -/
theorem test_shufWell_4 :
    nextHas (exec .shufWell (withDeckOf 4 wellState))
      (fun t => elements t == [some 1#32, some 4#32, some 3#32, some 2#32] && t.wellIndex == 3) = true := by
  decide +kernel

/-! ## Deck and system commands (section 8) -/

/-- R150: a length of 1 is always legal, since DECK_MAX is at least 1. -/
theorem test_dklen_1 : exec (.dklen 1#16) State.reset = .next ((State.reset.setLen 1#16).respond 0#64) := by
  have h : ¬ Config.deckMax < immNat 1#16 := Nat.not_lt.2 Config.deckMax_pos
  simp only [exec, execDklen, if_neg h]

/-- `DKWR 1, 9` with a set upper half of wdata. -/
theorem test_dkwr_ignores_upper_half :
    nextHas (exec (.dkwr 1#16) (withInputs 0x60000001#32 0xAAAAAAAA00000009#64 0#32 (withDeckOf 2 State.reset)))
      (fun t => elements t == [some 1#32, some 9#32] && answers 0#64 0#4 t) = true := by decide +kernel

/-- `DKWR 0, 7` with LEN = 0. -/
theorem test_dkwr_bad_index :
    nextHas (exec (.dkwr 0#16) (withInputs 0x60000000#32 7#64 0#32 State.reset))
      (fun t => answers 0x60000000#64 3#4 t && t.deck == []) = true := by decide +kernel

/-- `DKRD 1` of the element 2. -/
theorem test_dkrd_1 :
    nextHas (exec (.dkrd 1#16) (withDeckOf 2 State.reset)) (answers 2#64 0#4) = true := by decide +kernel

/-- An element never written reads as the free value, and the next one is another free value. -/
theorem test_dkrd_unwritten :
    exec (.dkrd 0#16) (State.reset.setLen 1#16) =
      .next (((State.reset.setLen 1#16).takeFree).respond (zext64 (Config.freeElement 0))) := by rfl

/-- STATUS composition: XS constructed and first fault INDEX_RANGE. -/
theorem test_rdcr_status :
    nextHas (exec (.rdcr 0#16) { xsState 1#32 with fault := 5#4 }) (answers 0x51#64 0#4) = true := by decide +kernel

/-- `RDCR 3` is illegal. -/
theorem test_rdcr_3 :
    nextHas (exec (.rdcr 3#16) (withInputs 0x80000003#32 0#64 0#32 State.reset)) (answers 0x80000003#64 1#4) = true := by
  decide +kernel

/-- R171: after RESET nothing is constructed and no fault is recorded. -/
theorem test_reset_clears :
    nextHas (exec .reset { withDeckOf 2 (xsState 1#32) with fault := 5#4 })
      (fun t => t.valid == ValidBits.none && t.fault == 0#4 && t.len == 0#16 && answers 0#64 0#4 t) = true := by
  decide +kernel

/-! ## The step -/

/-- The all-zero word is illegal; its info is 0. -/
theorem test_step_all_zero_word :
    nextHas (step (State.reset.withFetchWord 32 0)) (fun t => answers 0#64 1#4 t && t.fault == 1#4) = true := by
  decide +kernel

/-- A placed word is the next instruction. -/
theorem test_step_runs_placed_word :
    nextHas (step ((xsState 1#32).withFetchWord 32 0x20000000)) (answers 0x42021#64 0#4) = true := by decide +kernel

/-! ## Witnesses for the hypotheses of the statements -/

theorem witness_DecodeOfEncodeIsTheInstruction : Instr.wf (.rdcr 2#16) = true := by decide

theorem witness_DecodedWordIsItsEncoding : decode 0x80000002#32 = .ok (.rdcr 2#16) := by decide

theorem witness_TableRowsDecodeAndDoNotOverlap :
    0x5000FFFF#32 &&& (Instr.dklen 0#16).rowMask = (Instr.dklen 0#16).rowMatch ∧
    0x80000003#32 &&& (Instr.rdcr 0#16).rowMask = (Instr.rdcr 0#16).rowMatch ∧
    0x5000FFFF#32 &&& (Instr.dklen 7#16).rowMask = (Instr.dklen 7#16).rowMatch := by decide

/-- A state with one command pending. -/
def presenting (c : Word) : State := State.reset.setPending [.command ⟨c, 0#64, 0#32⟩]

theorem witness_IllegalWordsAreTheListedOnesAndFault :
    (presenting 0xFFFFFFFF#32).pending = .command ⟨0xFFFFFFFF#32, 0#64, 0#32⟩ :: [] ∧
    decode 0xFFFFFFFF#32 = .error .zeroFieldSet := by decide

theorem witness_StepRunsTheDecodedCommand :
    (presenting 0x90000000#32).pending = .command ⟨0x90000000#32, 0#64, 0#32⟩ :: [] ∧
    decode 0x90000000#32 = .ok .reset := by decide

theorem witness_StepWithNothingPendingHoldsTheState : State.reset.pending = [] := by rfl

theorem witness_HardResetLeavesTheResetState :
    (State.reset.setPending [.hardReset]).pending = .hardReset :: [] ∧
    (State.reset.setPending [.aborted ⟨0#32, 0#64, 0#32⟩]).pending = .aborted ⟨0#32, 0#64, 0#32⟩ :: [] := by decide

theorem witness_EveryStepKeepsTheInvariant : State.reset.Inv ∧ step State.reset = .next State.reset :=
  ⟨⟨Memory.wf_nil, Nat.zero_le _, by decide⟩, rfl⟩

/-- A host that presents c to a CORE with only unit PCG constructed, and some word in the unconstructed unit XS. -/
def waitingFor (c x : Word) : State :=
  { pcgState 42#64 with xsX := x, pending := [.command ⟨c, 7#64, 0#32⟩] }

/-- Two different states that differ only in the word of the unconstructed unit XS, before any command. -/
theorem witness_UnconstructedStateIsUnobservable :
    (waitingFor 0x28000000#32 0#32).sameButUnconstructed (waitingFor 0x28000000#32 5#32) ∧
    waitingFor 0x28000000#32 0#32 ≠ waitingFor 0x28000000#32 5#32 :=
  ⟨⟨rfl, rfl, rfl, rfl, rfl, rfl, rfl, rfl, (fun h => nomatch h), fun _ => ⟨rfl, rfl⟩, fun _ => rfl,
    fun _ => ⟨rfl, rfl⟩⟩, fun h => absurd (congrArg State.xsX h) (show ¬ (0#32 : Word) = 5#32 by decide)⟩

/-- Both perform NEXTU.PCG, the faulting NEXTU.XS and the SEED.XS that constructs the unit. -/
theorem witness_UnconstructedStateIsUnobservable_steps :
    nextHas (step (waitingFor 0x28000000#32 0#32)) (answers 0#64 0#4) = true ∧
    nextHas (step (waitingFor 0x28000000#32 5#32)) (answers 0#64 0#4) = true ∧
    nextHas (step (waitingFor 0x20000000#32 0#32)) (answers 0x20000000#64 4#4) = true ∧
    nextHas (step (waitingFor 0x20000000#32 5#32)) (answers 0x20000000#64 4#4) = true ∧
    nextHas (step (waitingFor 0x10000000#32 0#32)) (fun u => u.xsX == 7#32 && u.valid.xs) = true ∧
    nextHas (step (waitingFor 0x10000000#32 5#32)) (fun u => u.xsX == 7#32 && u.valid.xs) = true := by
  decide +kernel

/-- The four clauses: a first fault, a later fault, a completed command, RESET. -/
theorem witness_FaultRecordKeepsTheFirstFault :
    nextHas (step (presenting 0#32)) (fun u => u.port.faultOut != 0#4) = true ∧ (presenting 0#32).fault = 0#4 ∧
    nextHas (step { presenting 0#32 with fault := 4#4 }) (fun u => u.port.faultOut != 0#4) = true ∧
    nextHas (step (presenting 0x80000000#32)) (fun u => u.port.faultOut == 0#4) = true ∧
    decode 0x80000000#32 = .ok (.rdcr 0#16) ∧ decode 0x90000000#32 = .ok .reset := by decide +kernel

theorem witness_DeckAndLenHaveOnlyTheirWriters : Instr.nextuXs ≠ .reset ∧ State.reset.len.toNat ≤ 0 := by decide

theorem witness_UnitCommandsTouchOnlyTheirUnit : isUnitCommand .mt .seedMt ∧ GenUnit.mt ≠ .xs := ⟨.inl rfl, by decide⟩

theorem witness_DeckAndRegisterCommandsTouchNoUnit :
    (∃ n, Instr.dklen 3#16 = .dklen n) ∨ (∃ k, Instr.dklen 3#16 = .dkwr k) ∨ (∃ k, Instr.dklen 3#16 = .dkrd k) ∨
      ∃ r, Instr.dklen 3#16 = .rdcr r := .inl ⟨_, rfl⟩

/-- SEED.XS against NEXTU.PCG on a constructed unit PCG. -/
theorem witness_CommandsToDifferentUnitsCommute :
    GenUnit.xs ≠ .pcg ∧ decode 0x10000000#32 = .ok .seedXs ∧ decode 0x28000000#32 = .ok .nextuPcg ∧
    isUnitCommand .xs .seedXs ∧ isUnitCommand .pcg .nextuPcg ∧ (pcgState 42#64).valid.get .pcg = true :=
  ⟨by decide, by decide, by decide, .inl rfl, .inr (.inl rfl), rfl⟩

/-- Two different states with the same operands; a zero truncated seed. -/
theorem witness_StreamDependsOnlyOnTheSeed :
    State.reset.port.wdata = (xsState 9#32).port.wdata ∧ State.reset.port.wdata.toNat % 2 ^ 32 = 0 ∧
    State.reset.port.dfltSeed = (xsState 9#32).port.dfltSeed := by decide

theorem witness_NextuXsReturnsTheNewWord : (xsState 1#32).valid.xs = true ∧ State.reset.valid.xs = false := by decide

theorem witness_NextfXsDividesExactly : (xsState 0#32).valid.xs = true ∧ State.reset.valid.xs = false := by decide

/-- A cursor inside, at its last value and at the twist. -/
theorem witness_NextuMtDrawsAtTheCursor :
    (mtState 623).mtIndex.val < 624 ∧ (mtState 623).valid.mt = true ∧ (mtState 624).mtIndex.val = 624 ∧
    (mtState 624).valid.mt = true ∧ State.reset.valid.mt = false := ⟨by decide, rfl, by decide, rfl, rfl⟩

theorem witness_NextuPcgRotatesTheOldState :
    (pcgState 0#64).valid.pcg = true ∧ State.reset.valid.pcg = false := by decide

theorem witness_NextuWellReturnsTheWordAtTheNewIndex :
    wellState.valid.well = true ∧ State.reset.valid.well = false := ⟨rfl, rfl⟩

/-- The ends of the two ranges of draws, and an even seed. -/
theorem witness_WellFirst31DrawsInClosedForm :
    (1 ≤ 1 ∧ 1 ≤ 15) ∧ (1 ≤ 15 ∧ 15 ≤ 15) ∧ (17 ≤ 17 ∧ 17 ≤ 31) ∧ (17 ≤ 31 ∧ 31 ≤ 31) ∧
    (withInputs 0x1C000000#32 6#64 0#32 State.reset).port.wdata.toNat % 2 = 0 := by decide

theorem witness_NextfDividesTheSampleOfNextu :
    GenUnit.pcg ≠ .xs ∧ (pcgState 0#64).valid.get .pcg = true ∧ State.reset.valid.get .pcg = false := by decide

theorem witness_RoundingIsToNearestEven : (0 : ℚ) < 1 ∧ (2 ^ 52 : Nat) ≤ 2 ^ 53 - 1 := by norm_num

theorem witness_FloatRanges : GenUnit.mt ≠ .xs := by decide

theorem witness_ShufIndexOfXsInIntegers : 2 ≤ 65535 ∧ 65535 ≤ 65535 := by decide

/-- A word and a length where D divides the product, and one where it does not. -/
theorem witness_ShufIndexOfOthersInIntegers :
    GenUnit.mt ≠ .xs ∧ 2 ≤ 51 ∧ 51 ≤ 65535 ∧ 4294967295 ∣ (2610666395#32).toNat * 51 ∧
    ¬ 4294967295 ∣ (1#32).toNat * 65535 := by decide

theorem witness_IndexRangeExactlyWhenTheFloatReachesOne : 1 ≤ 65534 ∧ 65534 ≤ 65534 := by decide

theorem witness_DklenSetsTheLength : (1#16).toNat ≤ Config.deckMax := Config.deckMax_pos

/-- The last index inside a deck of 2, and the first outside. -/
theorem witness_DkwrWritesOneElement :
    (1#16).toNat < (withDeckOf 2 State.reset).len.toNat ∧ (withDeckOf 2 State.reset).len.toNat ≤ (2#16).toNat := by
  decide

/-- A written element, one not written, and an index outside. -/
theorem witness_DkrdReadsOneElement :
    (1#16).toNat < (withDeckOf 2 State.reset).len.toNat ∧ (withDeckOf 2 State.reset).view 1 = some 2#32 ∧
    (0#16).toNat < (State.reset.setLen 1#16).len.toNat ∧ (State.reset.setLen 1#16).view 0 = none ∧
    (withDeckOf 2 State.reset).len.toNat ≤ (2#16).toNat := by decide +kernel

theorem witness_DeckReadsBackWhatWasWritten :
    (0#16).toNat < (State.reset.setLen 1#16).len.toNat ∧ (State.reset.setLen 1#16).len.toNat ≤ Config.deckMax ∧
    (0#16).toNat ≤ Config.deckMax := ⟨by decide, Config.deckMax_pos, Nat.zero_le _⟩

/-- Decks of length 0 and 1. -/
theorem witness_ShufOfAShortDeckIsANoOp :
    (pcgState 42#64).valid.get .pcg = true ∧ (pcgState 42#64).len.toNat ≤ 1 ∧
    (withDeckOf 1 (pcgState 42#64)).len.toNat ≤ 1 := by decide +kernel

theorem witness_ShufOfAnUnconstructedUnitFaults : State.reset.valid.get .well = false := rfl

/-- Each unit completes on a deck of three written elements. -/
theorem witness_ShufCompletesAsFisherYates :
    ((withDeckOf 3 (xsState 1#32)).valid.get .xs = true ∧ (withDeckOf 3 (xsState 1#32)).drawsInRange .xs ∧
      (withDeckOf 3 (xsState 1#32)).deckWritten) ∧
    ((withDeckOf 3 (mtState 0)).valid.get .mt = true ∧ (withDeckOf 3 (mtState 0)).drawsInRange .mt) ∧
    ((withDeckOf 3 (pcgState 42#64)).valid.get .pcg = true ∧ (withDeckOf 3 (pcgState 42#64)).drawsInRange .pcg) ∧
    ((withDeckOf 3 wellState).valid.get .well = true ∧ (withDeckOf 3 wellState).drawsInRange .well) := by
  have three : ∀ P : Nat → Prop, P 1 → P 2 → ∀ i, 1 ≤ i → i < 3 → P i := by
    intro P h1 h2 i hi hi'
    rcases (by omega : i = 1 ∨ i = 2) with rfl | rfl
    · exact h1
    · exact h2
  refine ⟨⟨rfl, ?_, ?_⟩, ⟨rfl, ?_⟩, ⟨rfl, ?_⟩, ⟨rfl, ?_⟩⟩
  · exact three _ (by decide +kernel) (by decide +kernel)
  · intro k hk
    have hk : k < 3 := hk
    rcases (by omega : k = 0 ∨ k = 1 ∨ k = 2) with rfl | rfl | rfl <;> decide +kernel
  · exact three _ (by decide +kernel) (by decide +kernel)
  · exact three _ (by decide +kernel) (by decide +kernel)
  · exact three _ (by decide +kernel) (by decide +kernel)

/-- Seed 1 on a deck of five: position 2 is the first out of range. -/
theorem witness_ShufStopsAtTheFirstIndexOutOfRange :
    (withDeckOf 5 (xsState 1#32)).valid.get .xs = true ∧ 2 < (withDeckOf 5 (xsState 1#32)).len.toNat ∧
    (∀ p, 2 < p → p < (withDeckOf 5 (xsState 1#32)).len.toNat → (withDeckOf 5 (xsState 1#32)).swapIndex .xs p ≤ p) ∧
    2 < (withDeckOf 5 (xsState 1#32)).swapIndex .xs 2 := by
  refine ⟨rfl, by decide +kernel, ?_, by decide +kernel⟩
  intro p h1 h2
  have h2 : p < 5 := h2
  rcases (by omega : p = 3 ∨ p = 4) with rfl | rfl <;> decide +kernel

/-- A deck of three written elements, on a constructed unit of each algorithm. -/
theorem witness_ShufPermutesTheDeck :
    ∀ s ∈ [xsState 1#32, mtState 0, pcgState 42#64, wellState],
      (withDeckOf 3 s).deckWritten ∧ (withDeckOf 3 s).len.toNat = 3 := by
  intro s _
  refine ⟨?_, rfl⟩
  intro k hk
  have hk : k < 3 := hk
  rcases (by omega : k = 0 ∨ k = 1 ∨ k = 2) with rfl | rfl | rfl <;> rfl

theorem witness_RdcrReadsTheControlRegisters : 2 < (3#16).toNat := by decide

/-- A constructed unit of each algorithm; MT stands at the twist. -/
theorem witness_NextuAndNextfReadTheOneStream :
    (xsState 1#32).valid.get .xs = true ∧ (mtState 624).valid.get .mt = true ∧
    (pcgState 0#64).valid.get .pcg = true ∧ wellState.valid.get .well = true := ⟨rfl, rfl, rfl, rfl⟩

end Sys2Proof.Tests
end

section
/-!
PROOFS. The statements of spec/00_scope.md section 4: rounding to binary64 and its encoding (R9), and the
normalisation of a word (R10).
-/
namespace Sys2Proof.Machine

/-! ## The nearest integer -/

/-- Every other integer is at least a half from m, as it is at least 1 from the nearest one. -/
theorem half_le_dist_of_ne_nearestEven {m : ℚ} {k : ℤ} (hk : k ≠ nearestEven m) : 1 / 2 ≤ |m - k| := by
  have hhalf := nearestEven_dist m
  have hone : (1 : ℚ) ≤ |(k : ℚ) - nearestEven m| := by
    exact_mod_cast Int.one_le_abs (sub_ne_zero.2 hk)
  have htri := abs_sub_le (k : ℚ) m (nearestEven m)
  rw [abs_sub_comm (k : ℚ) m] at htri
  linarith

/-- No integer is nearer than `nearestEven m`. -/
theorem nearestEven_nearest (m : ℚ) (k : ℤ) : |m - nearestEven m| ≤ |m - k| := by
  rcases eq_or_ne k (nearestEven m) with rfl | hk
  · exact le_rfl
  · exact (nearestEven_dist m).trans (half_le_dist_of_ne_nearestEven hk)

/-- Halfway between two integers the even one is taken. -/
theorem nearestEven_even_of_half {m : ℚ} (h : |m - nearestEven m| = 1 / 2) : nearestEven m % 2 = 0 := by
  have hlo : ((m.floor : ℤ) : ℚ) ≤ m := Int.floor_le m
  have hhi : m < (m.floor : ℤ) + 1 := Int.lt_floor_add_one m
  simp only [nearestEven] at h ⊢
  split_ifs at h ⊢ with hbelow habove heven
  · rw [abs_of_nonneg (by linarith)] at h
    linarith
  · push_cast at h
    rw [abs_of_neg (by linarith)] at h
    linarith
  · exact heven
  · omega

/-- Another integer as near is possible only halfway, so the one taken is even. -/
theorem nearestEven_even_of_tie {m : ℚ} {k : ℤ} (hk : k ≠ nearestEven m)
    (htie : |m - nearestEven m| = |m - k|) : nearestEven m % 2 = 0 :=
  nearestEven_even_of_half
    ((nearestEven_dist m).antisymm ((half_le_dist_of_ne_nearestEven hk).trans_eq htie.symm))

/-- An integer not above m is not above its rounding. -/
theorem le_nearestEven {m : ℚ} {a : ℤ} (h : (a : ℚ) ≤ m) : a ≤ nearestEven m := by
  by_contra! hlt
  have hlt' : (nearestEven m : ℚ) < a := by exact_mod_cast hlt
  have hnear := nearestEven_nearest m a
  rw [abs_of_nonneg (by linarith), abs_of_nonneg (by linarith)] at hnear
  linarith

/-- An integer not below m is not below its rounding. -/
theorem nearestEven_le {m : ℚ} {a : ℤ} (h : m ≤ (a : ℚ)) : nearestEven m ≤ a := by
  by_contra! hlt
  have hlt' : (a : ℚ) < nearestEven m := by exact_mod_cast hlt
  have hnear := nearestEven_nearest m a
  rw [abs_of_nonpos (by linarith), abs_of_nonpos (by linarith)] at hnear
  linarith

/-! ## The number of ulps -/

theorem pow2_eq_ulps (e : ℤ) : pow2 e = 2 ^ 52 * pow2 (e - 52) := by
  rw [show (2 : ℚ) ^ 52 = pow2 52 by norm_num [pow2], ← pow2_add, add_sub_cancel]

theorem pow2_succ_eq_ulps (e : ℤ) : pow2 (e + 1) = 2 ^ 53 * pow2 (e - 52) := by
  rw [pow2_add, pow2_eq_ulps e, show pow2 1 = 2 by norm_num [pow2]]
  ring

/-- A positive value is from 2^52 to below 2^53 of its own ulps. -/
theorem ulps_bounds {q : ℚ} (hq : 0 < q) :
    2 ^ 52 ≤ q / pow2 (expOf q - 52) ∧ q / pow2 (expOf q - 52) < 2 ^ 53 := by
  have hp := pow2_pos (expOf q - 52)
  rw [le_div_iff₀ hp, div_lt_iff₀ hp, ← pow2_eq_ulps, ← pow2_succ_eq_ulps]
  exact expOf_spec hq

/-- Its rounding is from 2^52 to 2^53 ulps. -/
theorem nearestEven_ulps_bounds {q : ℚ} (hq : 0 < q) :
    2 ^ 52 ≤ nearestEven (q / pow2 (expOf q - 52)) ∧ nearestEven (q / pow2 (expOf q - 52)) ≤ 2 ^ 53 := by
  obtain ⟨hlo, hhi⟩ := ulps_bounds hq
  exact ⟨le_nearestEven (by exact_mod_cast hlo), nearestEven_le (by exact_mod_cast hhi.le)⟩

/-- From 2^52 to below 2^53 units of 2^(e-52) have the exponent e. -/
theorem expOf_ulps {r : Nat} {e : ℤ} (hlo : 2 ^ 52 ≤ r) (hhi : r < 2 ^ 53) :
    expOf ((r : ℚ) * pow2 (e - 52)) = e := by
  have hlo' : (2 : ℚ) ^ 52 ≤ r := by exact_mod_cast hlo
  have hhi' : (r : ℚ) < 2 ^ 53 := by exact_mod_cast hhi
  have hp := pow2_pos (e - 52)
  apply expOf_eq
  · rw [pow2_eq_ulps]
    gcongr
  · rw [pow2_succ_eq_ulps]
    gcongr

/-! ## The encoding -/

@[simp] theorem rne64_zero : rne64 0 = 0 := rne64_of_nonpos le_rfl

@[simp] theorem f64bits_zero : f64bits 0 = 0#64 := by simp [f64bits]

/-- The pattern as a number: the exponent field over the 52 bits of the fraction. -/
theorem toNat_binary64_fields {a b : Nat} (ha : a < 2 ^ 11) (hb : b < 2 ^ 52) :
    ((0#1) ++ BitVec.ofInt 11 a ++ BitVec.ofInt 52 b).toNat = a * 2 ^ 52 + b := by
  simp only [BitVec.ofInt_natCast, BitVec.toNat_append, BitVec.toNat_ofNat, Nat.mod_eq_of_lt ha,
    Nat.mod_eq_of_lt hb, Nat.zero_mod, Nat.zero_shiftLeft, Nat.zero_or]
  rw [← Nat.shiftLeft_add_eq_or_of_lt hb, Nat.shiftLeft_eq]

/-- The pattern of a normal value, given by its significand r and its exponent e. -/
theorem toNat_f64bits_normal {r : Nat} {e : ℤ} (he1 : -1022 ≤ e) (he2 : e ≤ 1023) (hlo : 2 ^ 52 ≤ r)
    (hhi : r < 2 ^ 53) :
    (f64bits ((r : ℚ) * pow2 (e - 52))).toNat = (e + 1023).toNat * 2 ^ 52 + (r - 2 ^ 52) := by
  have hp := pow2_pos (e - 52)
  have hr : (0 : ℚ) < r := by exact_mod_cast (by omega : 0 < r)
  have hpos : 0 < (r : ℚ) * pow2 (e - 52) := by positivity
  have hfloor : ((r : ℚ) * pow2 (e - 52) / pow2 (e - 52)).floor = r := by
    rw [mul_div_cancel_right₀ _ hp.ne']
    exact Int.floor_natCast (R := ℚ) r
  have hexp : e + 1023 = ((e + 1023).toNat : ℤ) := by omega
  have hfrac : (r : ℤ) - 2 ^ 52 = ((r - 2 ^ 52 : Nat) : ℤ) := by omega
  rw [f64bits, if_neg (not_le.2 hpos)]
  simp only [expOf_ulps hlo hhi, hfloor]
  rw [hexp, hfrac]
  exact toNat_binary64_fields (by omega) (by omega)

/-- Settles O38: `nearestEven` gives the number of ulps, and the encoding is read off its fields. -/
theorem roundingIsToNearestEven : Obligations.RoundingIsToNearestEven := by
  refine ⟨rne64_zero, fun q hq => ?_, f64bits_zero, fun e r he1 he2 hlo hhi => ?_⟩
  · obtain ⟨hlo, hhi⟩ := nearestEven_ulps_bounds hq
    simp only [← pow2_eq_zpow]
    exact ⟨expOf q, nearestEven (q / pow2 (expOf q - 52)), (expOf_spec hq).1, (expOf_spec hq).2, hlo, hhi,
      rne64_of_pos hq, fun k => ⟨nearestEven_nearest _ k, nearestEven_even_of_tie⟩⟩
  · rw [← pow2_eq_zpow]
    exact toNat_f64bits_normal he1 he2 hlo hhi

/-! ## Normalisation -/

@[simp] theorem normDiv_zero (D : Nat) : normDiv 0#32 D = 0 := by simp [normDiv]

/-- Division by 2^31 only moves the exponent, and a word has fewer than 53 bits, so nothing is rounded away. -/
theorem normDiv_xsDiv (w : Word) : normDiv w 2147483648 = (w.toNat : ℚ) / 2 ^ 31 := by
  rcases Nat.eq_zero_or_pos w.toNat with h0 | hpos
  · simp [normDiv, h0]
  · have hlt : ((w.toNat : ℤ) : ℚ) < 2 ^ 53 := by exact_mod_cast w.isLt.trans (by norm_num)
    have hdiv : (w.toNat : ℚ) / 2 ^ 31 = ((w.toNat : ℤ) : ℚ) * pow2 (-31) := by
      rw [pow2_eq_zpow, zpow_neg, Int.cast_natCast, div_eq_mul_inv]
      norm_cast
    rw [normDiv, show ((2147483648 : Nat) : ℚ) = 2 ^ 31 by norm_num, hdiv]
    exact rne64_exact (by exact_mod_cast hpos) hlt

/-- The largest word is the divisor itself (90_conflicts.md C1). -/
theorem normDiv_u32Div_largest : normDiv 0xFFFFFFFF#32 4294967295 = 1 := by
  have hone := rne64_exact (r := 1) (e := 0) (by norm_num) (by norm_num)
  simpa [normDiv, pow2] using hone

/-- Settles O39: the divisor 2^31 is exact, and the named values are its instances and the quotients 0 and 1. -/
theorem normalisationOfWords : Obligations.NormalisationOfWords := by
  refine ⟨normDiv_xsDiv, fun w => by simp [normDiv], normDiv_zero _, normDiv_zero _, normDiv_u32Div_largest, ?_⟩
  rw [normDiv_xsDiv]
  norm_num

end Sys2Proof.Machine
end

section
/-!
PROOFS. The parts of the state and what each shared operation does to them, for the statements of spec/10_state.md:
the state of one unit (R21 to R24), the rest of the CORE's state (R26, R27), and which unit a command addresses.
-/
namespace Sys2Proof

/-! ## The commands by operation and unit -/

/-- Case analysis by operation: the unit of the four generator operations stays a variable. -/
theorem Instr.byOperation {motive : Instr → Prop} (seed : ∀ a, motive (seedOf a))
    (nextu : ∀ a, motive (nextuOf a)) (nextf : ∀ a, motive (nextfOf a)) (shuf : ∀ a, motive (shufOf a))
    (dklen : ∀ n, motive (.dklen n)) (dkwr : ∀ k, motive (.dkwr k)) (dkrd : ∀ k, motive (.dkrd k))
    (rdcr : ∀ r, motive (.rdcr r)) (reset : motive .reset) (i : Instr) : motive i := by
  cases i with
  | seedXs => exact seed .xs
  | seedMt => exact seed .mt
  | seedPcg => exact seed .pcg
  | seedWell => exact seed .well
  | nextuXs => exact nextu .xs
  | nextuMt => exact nextu .mt
  | nextuPcg => exact nextu .pcg
  | nextuWell => exact nextu .well
  | nextfXs => exact nextf .xs
  | nextfMt => exact nextf .mt
  | nextfPcg => exact nextf .pcg
  | nextfWell => exact nextf .well
  | shufXs => exact shuf .xs
  | shufMt => exact shuf .mt
  | shufPcg => exact shuf .pcg
  | shufWell => exact shuf .well
  | dklen n => exact dklen n
  | dkwr k => exact dkwr k
  | dkrd k => exact dkrd k
  | rdcr r => exact rdcr r
  | reset => exact reset

/-- The unit a command addresses, if any (spec/30_encoding.md R75). -/
def Instr.unit? : Instr → Option GenUnit
  | .seedXs | .nextuXs | .nextfXs | .shufXs => some .xs
  | .seedMt | .nextuMt | .nextfMt | .shufMt => some .mt
  | .seedPcg | .nextuPcg | .nextfPcg | .shufPcg => some .pcg
  | .seedWell | .nextuWell | .nextfWell | .shufWell => some .well
  | _ => none

@[simp] theorem Instr.unit?_seedOf (a : GenUnit) : (seedOf a).unit? = some a := by cases a <;> rfl
@[simp] theorem Instr.unit?_nextuOf (a : GenUnit) : (nextuOf a).unit? = some a := by cases a <;> rfl
@[simp] theorem Instr.unit?_nextfOf (a : GenUnit) : (nextfOf a).unit? = some a := by cases a <;> rfl
@[simp] theorem Instr.unit?_shufOf (a : GenUnit) : (shufOf a).unit? = some a := by cases a <;> rfl

end Sys2Proof

namespace Sys2Proof.Machine

/-! ## The state of one unit -/

/-- The state of one generator unit as a value (spec/10_state.md R21 to R24). -/
inductive UnitState where
  | xs (x : Word)
  | mt (v : MtArray) (k : Fin 625)
  | pcg (x : DWord)
  | well (v : WellArray) (k : Fin 16)

/-- What the state holds of unit a. -/
def State.unitState (s : State) : GenUnit → UnitState
  | .xs => .xs s.xsX
  | .mt => .mt s.mt s.mtIndex
  | .pcg => .pcg s.pcgState
  | .well => .well s.ws s.wellIndex

/-- The unit whose state it is. -/
def UnitState.unit : UnitState → GenUnit
  | .xs _ => .xs
  | .mt _ _ => .mt
  | .pcg _ => .pcg
  | .well _ _ => .well

@[simp] theorem State.unit_unitState (s : State) (a : GenUnit) : (s.unitState a).unit = a := by cases a <;> rfl

/-- Writing the state of one unit. -/
def State.setUnit (s : State) : UnitState → State
  | .xs x => s.setXs x
  | .mt v k => s.setMt v k
  | .pcg x => s.setPcg x
  | .well v k => s.setWell v k

/-- Reading a unit after writing one: the same unit, or another. -/
theorem State.unitState_setUnit (s : State) (u : UnitState) (a : GenUnit) :
    (s.setUnit u).unitState a = if a = u.unit then u else s.unitState a := by
  cases u <;> cases a <;> rfl

/-- The deck, LEN, the fault record and the free-value counter: no draw reads or writes any of them. -/
def State.systemState (s : State) : Memory × BitVec 16 × BitVec 4 × DWord × Nat :=
  (s.deck, s.len, s.fault, s.finfo, s.freeCount)

@[simp] theorem State.unitState_respond (s : State) (d : DWord) (a : GenUnit) :
    (s.respond d).unitState a = s.unitState a := by cases a <;> rfl
@[simp] theorem State.unitState_raise (s : State) (f : FaultCode) (info : DWord) (a : GenUnit) :
    (s.raise f info).unitState a = s.unitState a := by cases a <;> simp [State.unitState]
@[simp] theorem State.unitState_present (s : State) (t : Transaction) (r : List Event) (a : GenUnit) :
    (s.present t r).unitState a = s.unitState a := by cases a <;> rfl
@[simp] theorem State.unitState_withDeck (s : State) (m : Memory) (n : Nat) (a : GenUnit) :
    (s.withDeck m n).unitState a = s.unitState a := by cases a <;> rfl
@[simp] theorem State.unitState_setLen (s : State) (n : BitVec 16) (a : GenUnit) :
    (s.setLen n).unitState a = s.unitState a := by cases a <;> rfl
@[simp] theorem State.unitState_construct (s : State) (b a : GenUnit) :
    (s.construct b).unitState a = s.unitState a := by cases a <;> rfl

@[simp] theorem State.setUnit_valid (s : State) (u : UnitState) : (s.setUnit u).valid = s.valid := by
  cases u <;> rfl
@[simp] theorem State.setUnit_port (s : State) (u : UnitState) : (s.setUnit u).port = s.port := by
  cases u <;> rfl
@[simp] theorem State.setUnit_pending (s : State) (u : UnitState) : (s.setUnit u).pending = s.pending := by
  cases u <;> rfl
@[simp] theorem State.systemState_setUnit (s : State) (u : UnitState) :
    (s.setUnit u).systemState = s.systemState := by cases u <;> rfl
@[simp] theorem State.systemState_construct (s : State) (a : GenUnit) :
    (s.construct a).systemState = s.systemState := rfl
@[simp] theorem State.systemState_respond (s : State) (d : DWord) :
    (s.respond d).systemState = s.systemState := rfl
@[simp] theorem State.systemState_present (s : State) (t : Transaction) (r : List Event) :
    (s.present t r).systemState = s.systemState := rfl

/-- The six generator fields are the states of the four units. -/
theorem State.generatorFields_eq {s t : State} (h : ∀ a, s.unitState a = t.unitState a) :
    s.xsX = t.xsX ∧ s.mt = t.mt ∧ s.mtIndex = t.mtIndex ∧ s.pcgState = t.pcgState ∧ s.ws = t.ws ∧
      s.wellIndex = t.wellIndex := by
  obtain ⟨hmt, hmtIndex⟩ := UnitState.mt.inj (h .mt)
  obtain ⟨hws, hwellIndex⟩ := UnitState.well.inj (h .well)
  exact ⟨UnitState.xs.inj (h .xs), hmt, hmtIndex, UnitState.pcg.inj (h .pcg), hws, hwellIndex⟩

/-! ## The VALID bits -/

theorem ValidBits.ext_get {v w : ValidBits} (h : ∀ a, v.get a = w.get a) : v = w := by
  have hbits : v.xs = w.xs ∧ v.mt = w.mt ∧ v.pcg = w.pcg ∧ v.well = w.well := ⟨h .xs, h .mt, h .pcg, h .well⟩
  cases v
  cases w
  simpa using hbits

theorem ValidBits.get_construct (v : ValidBits) (a b : GenUnit) :
    (v.construct a).get b = if b = a then true else v.get b := by
  cases a <;> cases b <;> rfl

@[simp] theorem ValidBits.get_none (a : GenUnit) : ValidBits.none.get a = false := by cases a <;> rfl

/-! ## Draws -/

/-- One draw as a function of the unit's state: the Sample and the next state (R101, R114, R132, R142). -/
def UnitState.next : UnitState → Word × UnitState
  | .xs x => (xsStep x, .xs (xsStep x))
  | .mt v k => ((mtDraw v k).1, .mt (mtDraw v k).2.1 (mtDraw v k).2.2)
  | .pcg x => (pcgOutput x, .pcg (pcgNext x))
  | .well v k => ((wellDraw v k).1, .well (wellDraw v k).2.1 (wellDraw v k).2.2)

@[simp] theorem UnitState.unit_next (u : UnitState) : u.next.2.unit = u.unit := by cases u <;> rfl

/-- A draw reads and writes its own unit only (R35). -/
theorem State.draw_eq (s : State) (a : GenUnit) :
    s.draw a = ((s.unitState a).next.1, s.setUnit (s.unitState a).next.2) := by
  cases a <;> rfl

theorem State.unitState_draw (s : State) (a b : GenUnit) :
    (s.draw a).2.unitState b = if b = a then (s.unitState a).next.2 else s.unitState b := by
  simp [State.draw_eq, State.unitState_setUnit]

theorem State.unitState_drawN_ne (s : State) {a b : GenUnit} (h : b ≠ a) (n : Nat) :
    (State.drawN a n s).unitState b = s.unitState b := by
  induction n generalizing s with
  | zero => rfl
  | succ n ih => rw [State.drawN, ih, State.unitState_draw, if_neg h]

/-- The Sample and the unit's next state are functions of the unit's state. -/
theorem State.draw_congr {s t : State} {a : GenUnit} (h : s.unitState a = t.unitState a) :
    (s.draw a).1 = (t.draw a).1 ∧ (s.draw a).2.unitState a = (t.draw a).2.unitState a := by
  rw [State.unitState_draw, State.unitState_draw, State.draw_eq, State.draw_eq, h]
  exact ⟨rfl, rfl⟩

/-- So is the unit's whole stream. -/
theorem State.sample_congr {s t : State} {a : GenUnit} (h : s.unitState a = t.unitState a) (k : Nat) :
    s.sample a k = t.sample a k := by
  induction k generalizing s t with
  | zero => exact (State.draw_congr h).1
  | succ k ih => exact ih (State.draw_congr h).2

@[simp] theorem State.systemState_draw (s : State) (a : GenUnit) :
    (s.draw a).2.systemState = s.systemState := by cases a <;> rfl

@[simp] theorem State.systemState_drawN (s : State) (a : GenUnit) (n : Nat) :
    (State.drawN a n s).systemState = s.systemState := by
  induction n generalizing s with
  | zero => rfl
  | succ n ih => rw [State.drawN, ih, State.systemState_draw]

@[simp] theorem State.drawN_port (s : State) (a : GenUnit) (n : Nat) : (State.drawN a n s).port = s.port := by
  induction n generalizing s with
  | zero => rfl
  | succ n ih => rw [State.drawN, ih, State.draw_port]

@[simp] theorem State.drawN_pending (s : State) (a : GenUnit) (n : Nat) :
    (State.drawN a n s).pending = s.pending := by
  induction n generalizing s with
  | zero => rfl
  | succ n ih => rw [State.drawN, ih, State.draw_pending]

/-! ## Seeding, for any unit -/

/-- The state SEED.a gives its unit (R100, R111, R131, R141). -/
def State.seedState (s : State) : GenUnit → UnitState
  | .xs => .xs s.xsSeed
  | .mt => .mt (lcgExpand s.seed32 624) 0
  | .pcg => .pcg s.seed64
  | .well => .well (lcgExpand s.seed32 16) 0

@[simp] theorem State.unit_seedState (s : State) (a : GenUnit) : (s.seedState a).unit = a := by cases a <;> rfl

/-- What SEED.a does to the state before it responds. -/
def State.seedUnit (s : State) (a : GenUnit) : State := (s.setUnit (s.seedState a)).construct a

@[simp] theorem State.seedUnit_valid (s : State) (a : GenUnit) :
    (s.seedUnit a).valid = s.valid.construct a := by simp [State.seedUnit]
@[simp] theorem State.seedUnit_port (s : State) (a : GenUnit) : (s.seedUnit a).port = s.port := by
  simp [State.seedUnit]
@[simp] theorem State.seedUnit_pending (s : State) (a : GenUnit) : (s.seedUnit a).pending = s.pending := by
  simp [State.seedUnit]
@[simp] theorem State.systemState_seedUnit (s : State) (a : GenUnit) :
    (s.seedUnit a).systemState = s.systemState := by simp [State.seedUnit]

theorem State.unitState_seedUnit (s : State) (a b : GenUnit) :
    (s.seedUnit a).unitState b = if b = a then s.seedState a else s.unitState b := by
  simp [State.seedUnit, State.unitState_setUnit]

/-- The seeded unit depends on the operand, and for XS with a zero truncated seed on `dflt_seed` (R210). -/
theorem State.seedState_congr {s t : State} {a : GenUnit} (hw : s.port.wdata = t.port.wdata)
    (hd : a = .xs → s.seed32 = 0#32 → s.port.dfltSeed = t.port.dfltSeed) : s.seedState a = t.seedState a := by
  have h32 : s.seed32 = t.seed32 := by simp only [State.seed32, hw]
  cases a with
  | xs =>
    have hx : s.xsSeed = t.xsSeed := by
      simp only [State.xsSeed, State.draw32, ← h32]
      split
      · next h0 => exact hd rfl h0
      · rfl
    simp only [State.seedState, hx]
  | mt => simp only [State.seedState, h32]
  | pcg => simp only [State.seedState, State.seed64, hw]
  | well => simp only [State.seedState, h32]

/-! ## The four generator operations, for any unit -/

theorem exec_seedOf (a : GenUnit) (s : State) :
    exec (seedOf a) s = .next ((s.seedUnit a).respond 0#64) := by cases a <;> rfl
theorem exec_nextuOf (a : GenUnit) (s : State) : exec (nextuOf a) s = .next (s.nextWord a) := by
  cases a <;> rfl
theorem exec_nextfOf (a : GenUnit) (s : State) : exec (nextfOf a) s = .next (s.nextFloat a) := by
  cases a <;> rfl
theorem exec_shufOf (a : GenUnit) (s : State) : exec (shufOf a) s = .next (s.shuffle a) := by
  cases a <;> rfl

theorem isUnitCommand.unit?_eq {a : GenUnit} {i : Instr} (h : isUnitCommand a i) : i.unit? = some a := by
  rcases h with rfl | rfl | rfl <;> simp

end Sys2Proof.Machine
end

section
/-!
PROOFS. What an instruction other than RESET can do, said once: how it ends (spec/00_scope.md R7, spec/60_exceptions.md
R190), and what it may have changed before that (spec/10_state.md R25 to R27, R35).
-/
namespace Sys2Proof.Machine

/-! ## The end of a command -/

/-- The info values a fault may carry (R181): `j * 2^16 + i` with `j > i` for INDEX_RANGE, else a command word. -/
def FaultCode.InfoOk (f : FaultCode) (info : DWord) : Prop :=
  if f = .indexRange then info.toNat < 2 ^ 48 ∧ info.toNat % 2 ^ 16 < info.toNat / 2 ^ 16
  else info.toNat < 2 ^ 32

/-- The command that has brought the state to e ends in u: with a result, or with a fault. -/
inductive State.Ends (e : State) : State → Prop where
  | completes (d : DWord) : State.Ends e (e.respond d)
  | faults (f : FaultCode) (info : DWord) (h : f.InfoOk info) : State.Ends e (e.raise f info)

/-- The faults with codes 1 to 4 carry the command word. -/
theorem State.Ends.raiseCmd (s : State) {f : FaultCode} (h : f ≠ .indexRange) : s.Ends (s.raiseCmd f) := by
  refine .faults f _ ?_
  rw [FaultCode.InfoOk, if_neg h, State.cmdInfo, zext64, BitVec.toNat_setWidth_of_le (by decide)]
  exact s.port.cmd.isLt

section
variable {e u : State} (h : e.Ends u)
include h

theorem State.Ends.unitState (a : GenUnit) : u.unitState a = e.unitState a := by cases h <;> simp
theorem State.Ends.valid : u.valid = e.valid := by cases h <;> simp
theorem State.Ends.deck : u.deck = e.deck := by cases h <;> simp
theorem State.Ends.len : u.len = e.len := by cases h <;> simp
theorem State.Ends.freeCount : u.freeCount = e.freeCount := by cases h <;> simp
theorem State.Ends.pending : u.pending = e.pending := by cases h <;> simp
theorem State.Ends.inputs :
    u.port.cmd = e.port.cmd ∧ u.port.wdata = e.port.wdata ∧ u.port.dfltSeed = e.port.dfltSeed := by
  cases h <;> simp

/-- The response code is one of R181. -/
theorem State.Ends.faultOut_le : u.port.faultOut.toNat ≤ 5 := by
  cases h with
  | completes d => simp
  | faults f info _ => simpa using f.code_range.2

/-- The first fault since reset is recorded as it is answered (R27, R190). -/
theorem State.Ends.record_of_first (hout : u.port.faultOut ≠ 0#4) (hf : e.fault = 0#4) :
    u.fault = u.port.faultOut ∧ u.finfo = u.port.rdata := by
  cases h with
  | completes d => exact absurd rfl hout
  | faults f info _ => simp [State.raise_fault, State.raise_finfo, hf]

/-- Any other end keeps the record (R27). -/
theorem State.Ends.record_kept (hk : u.port.faultOut = 0#4 ∨ e.fault ≠ 0#4) :
    u.fault = e.fault ∧ u.finfo = e.finfo := by
  cases h with
  | completes d => simp
  | faults f info _ =>
    have hf : e.fault ≠ 0#4 := hk.resolve_left (by simpa using f.code_ne_zero)
    simp [State.raise_fault, State.raise_finfo, hf]

end

theorem FaultCode.code_eq_five {f : FaultCode} : f.code.toNat = 5 ↔ f = .indexRange := by cases f <;> decide

/-- A fault record made of a code and its info is well formed (R181). -/
theorem State.faultRecordOk_of_recorded {u : State} {f : FaultCode} (hf : u.fault = f.code)
    (hi : f.InfoOk u.finfo) : u.FaultRecordOk := by
  have hrange := f.code_range
  have hne := f.code_ne_zero
  rw [FaultCode.InfoOk] at hi
  rw [State.FaultRecordOk, hf, FaultCode.code_eq_five]
  refine ⟨hrange.2, fun h0 => absurd h0 hne, fun h4 => ?_, fun h5 => by rwa [if_pos h5] at hi⟩
  have hnr : f ≠ .indexRange := fun h5 => by have := FaultCode.code_eq_five.2 h5; omega
  rwa [if_neg hnr] at hi

/-- The end of a command keeps the invariant: only a first fault writes the record. -/
theorem State.Ends.inv {e u : State} (h : e.Ends u) (he : e.Inv) : u.Inv := by
  obtain ⟨hdeck, hlen, hrec⟩ := he
  refine ⟨h.deck ▸ hdeck, h.len ▸ hlen, ?_⟩
  cases h with
  | completes d => exact hrec
  | faults f info hinfo =>
    by_cases hf : e.fault = 0#4
    · rw [State.raise_of_none hf]
      exact State.faultRecordOk_of_recorded rfl hinfo
    · rw [State.raise_of_some hf]
      exact hrec

/-! ## The info of INDEX_RANGE -/

/-- A swap index is below 2^32: the float is at most 4 and the deck at most 2^16 long. -/
theorem shufIndex_lt (w : Word) (a : GenUnit) {n : Nat} (hn : n ≤ 65536) :
    shufIndex (normDiv w (unitDiv a)) n < 2 ^ 32 := by
  have hD : (2147483648 : ℚ) ≤ (unitDiv a : ℚ) := by
    cases a <;> norm_num [unitDiv, Config.xsDiv, Config.u32Div]
  have hw : (w.toNat : ℚ) ≤ 4294967296 := by exact_mod_cast w.isLt.le
  have hq : (w.toNat : ℚ) / unitDiv a ≤ 2 := by
    rw [div_le_iff₀ (by linarith)]
    linarith
  have hf : normDiv w (unitDiv a) ≤ 4 := (rne64_le_two_mul (by positivity)).trans (by linarith)
  have hf0 := normDiv_nonneg w (unitDiv a)
  have hn' : (n : ℚ) ≤ 65536 := by exact_mod_cast hn
  have hprod : normDiv w (unitDiv a) * n ≤ 4 * 65536 := by gcongr
  have hround : rne64 (normDiv w (unitDiv a) * n) < (2 ^ 32 : ℤ) := by
    have := rne64_le_two_mul (mul_nonneg hf0 n.cast_nonneg)
    push_cast
    linarith
  have hfloor : (rne64 (normDiv w (unitDiv a) * n)).floor < 2 ^ 32 := Int.floor_lt.2 hround
  simp only [shufIndex]
  omega

theorem infoOk_indexRange {j i : Nat} (hi : i < 2 ^ 16) (hij : i < j) (hj : j < 2 ^ 32) :
    FaultCode.InfoOk .indexRange (indexRangeInfo j i) := by
  have hval : (indexRangeInfo j i).toNat = j * 2 ^ 16 + i := by
    rw [indexRangeInfo, BitVec.toNat_ofNat, Nat.mod_eq_of_lt (by omega)]
  rw [FaultCode.InfoOk, if_pos rfl, hval]
  omega

/-! ## The effect of a command -/

/-- What instruction i may have changed of s when it ends: its unit's state; the unit's VALID bit, if it is SEED; LEN,
if it is DKLEN; elements below LEN, if it is DKWR or SHUF; the count of free values, if it is DKRD or SHUF. The
fault record and the ports change only with the end of the command. -/
structure Effect (i : Instr) (s e : State) : Prop where
  units : ∀ a, i.unit? ≠ some a → e.unitState a = s.unitState a
  valid : ∀ a, i ≠ seedOf a → e.valid.get a = s.valid.get a
  len : (∀ n, i ≠ .dklen n) → e.len = s.len
  lenBound : s.len.toNat ≤ Config.deckMax → e.len.toNat ≤ Config.deckMax
  deck : (∀ k, i ≠ .dkwr k) → (∀ a, i ≠ shufOf a) → e.deck = s.deck
  deckAbove : ∀ k, s.len.toNat ≤ k → e.view k = s.view k
  deckWf : s.len.toNat ≤ Config.deckMax → Memory.wf s.deck → Memory.wf e.deck
  freeCount : (∀ k, i ≠ .dkrd k) → (∀ a, i ≠ shufOf a) → e.freeCount = s.freeCount
  record : e.fault = s.fault ∧ e.finfo = s.finfo
  host : e.pending = s.pending ∧ e.port = s.port

namespace Effect

/-- A change of unit state and VALID bits only. -/
theorem of_units {i : Instr} {s e : State} (hsys : e.systemState = s.systemState)
    (hhost : e.pending = s.pending ∧ e.port = s.port)
    (hunits : ∀ a, i.unit? ≠ some a → e.unitState a = s.unitState a)
    (hvalid : ∀ a, i ≠ seedOf a → e.valid.get a = s.valid.get a) : Effect i s e := by
  obtain ⟨hdeck, hlen, hfault, hfinfo, hcount⟩ :
      e.deck = s.deck ∧ e.len = s.len ∧ e.fault = s.fault ∧ e.finfo = s.finfo ∧ e.freeCount = s.freeCount := by
    simpa [State.systemState] using hsys
  exact
    { units := hunits
      valid := hvalid
      len := fun _ => hlen
      lenBound := fun h => hlen ▸ h
      deck := fun _ _ => hdeck
      deckAbove := fun k _ => by rw [State.view, State.view, hdeck]
      deckWf := fun _ h => hdeck ▸ h
      freeCount := fun _ _ => hcount
      record := ⟨hfault, hfinfo⟩
      host := hhost }

/-- No effect at all is allowed to every instruction. -/
theorem refl (i : Instr) (s : State) : Effect i s s :=
  of_units rfl ⟨rfl, rfl⟩ (fun _ _ => rfl) (fun _ _ => rfl)

theorem seedUnit (a : GenUnit) (s : State) : Effect (seedOf a) s (s.seedUnit a) := by
  refine of_units (by simp) (by simp) (fun b hb => ?_) (fun b hb => ?_)
  · rw [State.unitState_seedUnit, if_neg fun hba => hb (by simp [hba])]
  · rw [State.seedUnit_valid, ValidBits.get_construct, if_neg fun hba => hb (by rw [hba])]

theorem drawN {i : Instr} {a : GenUnit} (hi : i.unit? = some a) (n : Nat) (s : State) :
    Effect i s (State.drawN a n s) :=
  of_units (by simp) (by simp) (fun b hb => s.unitState_drawN_ne (fun hba => hb (by rw [hi, hba])) n) (by simp)

/-- Another deck and count of free values, for the commands that may change them. -/
theorem withDeck {i : Instr} {s e : State} (h : Effect i s e) {d : Memory} {c : Nat}
    (hdeck : (∀ k, i ≠ .dkwr k) → (∀ a, i ≠ shufOf a) → d = s.deck)
    (hcount : (∀ k, i ≠ .dkrd k) → (∀ a, i ≠ shufOf a) → c = s.freeCount)
    (habove : ∀ k, s.len.toNat ≤ k → Memory.lookup d k = s.view k)
    (hwf : s.len.toNat ≤ Config.deckMax → Memory.wf s.deck → Memory.wf d) : Effect i s (e.withDeck d c) :=
  { units := fun a ha => by rw [State.unitState_withDeck, h.units a ha]
    valid := h.valid
    len := h.len
    lenBound := h.lenBound
    deck := hdeck
    deckAbove := habove
    deckWf := hwf
    freeCount := hcount
    record := h.record
    host := h.host }

theorem setLen {n : BitVec 16} (hn : n.toNat ≤ Config.deckMax) (s : State) :
    Effect (.dklen n) s (s.setLen n) :=
  { units := fun a _ => s.unitState_setLen n a
    valid := fun _ _ => rfl
    len := fun h => absurd rfl (h n)
    lenBound := fun _ => hn
    deck := fun _ _ => rfl
    deckAbove := fun _ _ => rfl
    deckWf := fun _ h => h
    freeCount := fun _ _ => rfl
    record := ⟨rfl, rfl⟩
    host := ⟨rfl, rfl⟩ }

theorem writeElement {k : BitVec 16} {s : State} (hk : k.toNat < s.len.toNat) (v : Word) :
    Effect (.dkwr k) s (s.writeElement k.toNat v) :=
  (refl (.dkwr k) s).withDeck (fun h => absurd rfl (h k)) (fun _ _ => rfl)
    (fun n hn => Memory.lookup_write_ne _ v (by omega)) (fun hlen hwf => Memory.wf_write v hwf (by omega))

theorem readElement (k : BitVec 16) (n : Nat) (s : State) : Effect (.dkrd k) s (s.readElement n).2 := by
  obtain ⟨c, -, hread⟩ := s.readElement_frame n
  rw [hread]
  exact (refl (.dkrd k) s).withDeck (fun _ _ => rfl) (fun h => absurd rfl (h k)) (fun _ _ => rfl) (fun _ h => h)

/-- No effect breaks the invariant: LEN stays in its bound, and the written elements lie below LEN. -/
theorem inv {i : Instr} {s e : State} (h : Effect i s e) (hs : s.Inv) : e.Inv := by
  obtain ⟨hdeck, hlen, hrec⟩ := hs
  obtain ⟨hfault, hfinfo⟩ := h.record
  refine ⟨h.deckWf hlen hdeck, h.lenBound hlen, ?_⟩
  rwa [State.FaultRecordOk, hfault, hfinfo]

end Effect

/-! ## Every instruction -/

/-- The effect of i on s, and the end of the command in u. -/
def Performs (i : Instr) (s u : State) : Prop := ∃ e, Effect i s e ∧ e.Ends u

theorem nextWord_performs (a : GenUnit) (s : State) : Performs (nextuOf a) s (s.nextWord a) := by
  rcases s.nextWord_cases a with ⟨-, h⟩ | ⟨-, h⟩
  · exact ⟨(s.draw a).2, .drawN (by simp) 1 s, h ▸ .completes _⟩
  · exact ⟨s, .refl _ s, h ▸ .raiseCmd s (by decide)⟩

theorem nextFloat_performs (a : GenUnit) (s : State) : Performs (nextfOf a) s (s.nextFloat a) := by
  rcases s.nextFloat_cases a with ⟨-, h⟩ | ⟨-, h⟩
  · exact ⟨(s.draw a).2, .drawN (by simp) 1 s, h ▸ .completes _⟩
  · exact ⟨s, .refl _ s, h ▸ .raiseCmd s (by decide)⟩

theorem shuffleFrom_performs (a : GenUnit) (s : State) {i : Nat} (hi : i < s.len.toNat) :
    Performs (shufOf a) s (State.shuffleFrom a i s) := by
  obtain ⟨d, c, -, hwf, habove, hend⟩ := State.shuffleFrom_cases a i s
  have heffect : ∀ n, Effect (shufOf a) s ((State.drawN a n s).withDeck d c) := fun n =>
    (Effect.drawN (by simp) n s).withDeck (fun _ h => absurd rfl (h a)) (fun _ h => absurd rfl (h a))
      (fun k hk => habove k (by omega)) (fun hlen => hwf (by omega))
  rcases hend with h | ⟨p, w, hp, hpi, hj, h⟩
  · exact ⟨_, heffect i, h ▸ .completes _⟩
  · have := s.len.isLt
    exact ⟨_, heffect (i + 1 - p), h ▸ .faults _ _
      (infoOk_indexRange (by omega) hj (shufIndex_lt w a (by omega)))⟩

theorem shuffle_performs (a : GenUnit) (s : State) : Performs (shufOf a) s (s.shuffle a) := by
  unfold State.shuffle
  split
  · split
    · exact ⟨s, .refl _ s, .completes _⟩
    · exact shuffleFrom_performs a s (by omega)
  · exact ⟨s, .refl _ s, .raiseCmd s (by decide)⟩

/-- Every instruction but RESET answers a next state, with no effect but those of `Effect`. -/
theorem exec_performs (i : Instr) (s : State) (hi : i ≠ .reset) :
    ∃ u, exec i s = .next u ∧ Performs i s u := by
  cases i using Instr.byOperation with
  | seed a => exact ⟨_, exec_seedOf a s, _, .seedUnit a s, .completes _⟩
  | nextu a => exact ⟨_, exec_nextuOf a s, nextWord_performs a s⟩
  | nextf a => exact ⟨_, exec_nextfOf a s, nextFloat_performs a s⟩
  | shuf a => exact ⟨_, exec_shufOf a s, shuffle_performs a s⟩
  | dklen n =>
    refine ⟨_, rfl, ?_⟩
    split
    · exact ⟨s, .refl _ s, .raiseCmd s (by decide)⟩
    · next hn => exact ⟨_, .setLen (not_lt.1 hn) s, .completes _⟩
  | dkwr k =>
    refine ⟨_, rfl, ?_⟩
    split
    · exact ⟨s, .refl _ s, .raiseCmd s (by decide)⟩
    · next hk => exact ⟨_, .writeElement (not_le.1 hk) _, .completes _⟩
  | dkrd k =>
    refine ⟨_, rfl, ?_⟩
    split
    · exact ⟨s, .refl _ s, .raiseCmd s (by decide)⟩
    · exact ⟨_, .readElement k _ s, .completes _⟩
  | rdcr r =>
    refine ⟨_, rfl, s, .refl _ s, ?_⟩
    split
    · exact .completes _
    · exact .raiseCmd s (by decide)
  | reset => exact absurd rfl hi

theorem exec_reset (s : State) : exec .reset s = .next (s.enterReset.respond 0#64) := rfl

end Sys2Proof.Machine
end

section
/-!
PROOFS. The statements of spec/10_state.md that speak of one run: reset, the invariant, the fault record, and who
writes what.
-/
namespace Sys2Proof.Machine

/-! ## Reset (R36) -/

/-- Settles O10: the values stand in `State.reset`. -/
theorem resetHasTheSpecsValues : Obligations.ResetHasTheSpecsValues :=
  ⟨rfl, rfl, rfl, rfl, fun _ => rfl⟩

/-- Settles O11: no element is written, and LEN and the fault record are 0. -/
theorem invariantHoldsAtReset : Obligations.InvariantHoldsAtReset := by
  refine ⟨Memory.wf_reset, Nat.zero_le _, ?_⟩
  simp [State.FaultRecordOk, State.reset]

/-- So has the reset state entered from any state: the invariant reads no field that a reset leaves free. -/
theorem State.inv_enterReset (s : State) : s.enterReset.Inv :=
  State.Inv_of_eq invariantHoldsAtReset rfl rfl rfl rfl

/-! ## What a step does with what is pending -/

theorem step_of_nil {s : State} (hp : s.pending = []) : step s = .next s := by
  simp [step, fetch, hp]

theorem step_of_legal {s : State} {t : Transaction} {rest : List Event} {i : Instr}
    (hp : s.pending = .command t :: rest) (hd : decode t.cmd = .ok i) : step s = exec i (s.present t rest) := by
  simp [step, fetch, hp, decodePresented, hd]

theorem step_of_illegal {s : State} {t : Transaction} {rest : List Event} {r : Reject}
    (hp : s.pending = .command t :: rest) (hd : decode t.cmd = .error r) :
    step s = .next ((s.present t rest).raiseCmd .illegalCmd) := by
  simp [step, fetch, hp, decodePresented, hd]

theorem step_of_hardReset {s : State} {rest : List Event} (hp : s.pending = .hardReset :: rest) :
    step s = .next (s.setPending rest).hardReset := by
  simp [step, fetch, hp]

theorem step_of_aborted {s : State} {t : Transaction} {rest : List Event} (hp : s.pending = .aborted t :: rest) :
    step s = .next (s.present t rest).hardReset := by
  simp [step, fetch, hp]

/-! ## The invariant -/

/-- Every instruction keeps the invariant. -/
theorem exec_inv {i : Instr} {s u : State} (hs : s.Inv) (h : exec i s = .next u) : u.Inv := by
  by_cases hi : i = .reset
  · subst hi
    cases h
    exact s.inv_enterReset
  · obtain ⟨v, hv, e, heffect, hends⟩ := exec_performs i s hi
    cases hv.symm.trans h
    exact hends.inv (heffect.inv hs)

/-- Settles O12: the effect of an instruction keeps the invariant and so does its end; a reset establishes it. -/
theorem everyStepKeepsTheInvariant : Obligations.EveryStepKeepsTheInvariant := by
  intro s u hs hu
  have hpresent : ∀ t rest, (s.present t rest).Inv := fun _ _ => State.Inv_of_eq hs rfl rfl rfl rfl
  rcases step_cases s with ⟨-, h⟩ | ⟨t, rest, i, -, -, h⟩ | ⟨t, rest, r, -, -, h⟩ | ⟨rest, -, h⟩ | ⟨t, rest, -, h⟩
  · cases h.symm.trans hu
    exact hs
  · exact exec_inv (hpresent t rest) (h.symm.trans hu)
  · cases h.symm.trans hu
    exact (State.Ends.raiseCmd _ (by decide)).inv (hpresent t rest)
  · cases h.symm.trans hu
    exact (s.setPending rest).inv_enterReset
  · cases h.symm.trans hu
    exact (s.present t rest).inv_enterReset

/-! ## The fault record (R27) -/

/-- Every presented command but RESET ends with a result or a fault, on the fault record it found. -/
theorem step_ends {s : State} {t : Transaction} {rest : List Event} (hp : s.pending = .command t :: rest)
    (hd : decode t.cmd ≠ .ok .reset) :
    ∃ e u : State, step s = .next u ∧ e.fault = s.fault ∧ e.finfo = s.finfo ∧ e.Ends u := by
  cases hdec : decode t.cmd with
  | error r => exact ⟨s.present t rest, _, step_of_illegal hp hdec, rfl, rfl, .raiseCmd _ (by decide)⟩
  | ok i =>
    obtain ⟨u, hu, e, heffect, hends⟩ := exec_performs i (s.present t rest) fun hi => hd (hi ▸ hdec)
    obtain ⟨hfault, hfinfo⟩ := heffect.record
    exact ⟨e, u, (step_of_legal hp hdec).trans hu, hfault, hfinfo, hends⟩

/-- Settles O14: RESET clears the record; the end of any other command writes it for a first fault only. -/
theorem faultRecordKeepsTheFirstFault : Obligations.FaultRecordKeepsTheFirstFault := by
  intro s t rest hp
  by_cases hd : decode t.cmd = .ok .reset
  · refine ⟨_, (step_of_legal hp hd).trans (exec_reset _), ?_⟩
    simp [hd]
  · obtain ⟨e, u, hu, hfault, hfinfo, hends⟩ := step_ends hp hd
    rw [← hfault, ← hfinfo]
    exact ⟨u, hu, hends.faultOut_le, hends.record_of_first, fun _ hf => hends.record_kept (.inr hf),
      fun hout _ => hends.record_kept (.inl hout), fun h => absurd h hd⟩

/-! ## Who writes what (R25, R26, R35) -/

/-- Settles O15: SEED.a sets VALID[a], RESET clears it, and no other effect touches it. -/
theorem validBitsAreSetBySeedAndClearedByReset : Obligations.ValidBitsAreSetBySeedAndClearedByReset := by
  intro i s a
  by_cases hreset : i = .reset
  · subst hreset
    exact ⟨_, exec_reset s, by simp⟩
  by_cases hseed : i = seedOf a
  · subst hseed
    exact ⟨_, exec_seedOf a s, by simp [hreset, ValidBits.get_construct]⟩
  · obtain ⟨u, hu, e, heffect, hends⟩ := exec_performs i s hreset
    refine ⟨u, hu, ?_⟩
    rw [if_neg hreset, if_neg hseed, hends.valid, heffect.valid a hseed]

/-- Settles O16: what the effect of an instruction leaves of LEN and the deck. -/
theorem deckAndLenHaveOnlyTheirWriters : Obligations.DeckAndLenHaveOnlyTheirWriters := by
  intro i s hreset
  obtain ⟨u, hu, e, heffect, hends⟩ := exec_performs i s hreset
  have hview : ∀ k, u.view k = e.view k := fun k => by rw [State.view, State.view, hends.deck]
  refine ⟨u, hu, fun hn => hends.len.trans (heffect.len hn), fun hk ha k => ?_,
    fun k hlen => (hview k).trans (heffect.deckAbove k hlen)⟩
  rw [hview, State.view, State.view, heffect.deck hk ha]

/-- Settles O17: what the effect of a unit's command leaves of everything else. -/
theorem unitCommandsTouchOnlyTheirUnit : Obligations.UnitCommandsTouchOnlyTheirUnit := by
  intro a i s hi
  have hunit : i.unit? = some a := hi.elim isUnitCommand.unit?_eq (by rintro rfl; simp)
  have hother : ∀ {b : GenUnit} {j : Instr}, i = j → j.unit? = some b → b = a := fun hij hj =>
    Option.some.inj (hj.symm.trans (hij ▸ hunit))
  have hnounit : ∀ {j : Instr}, j.unit? = none → i ≠ j := fun hj hij => by simp [← hij, hunit] at hj
  obtain ⟨u, hu, e, heffect, hends⟩ := exec_performs i s (hnounit rfl)
  have hstate : ∀ b, a ≠ b → u.unitState b = s.unitState b := fun b hb => by
    rw [hends.unitState, heffect.units b (by simpa [hunit] using hb)]
  obtain ⟨hcmd, hwdata, hseed⟩ := hends.inputs
  obtain ⟨hpending, hport⟩ := heffect.host
  rw [hport] at hcmd hwdata hseed
  refine ⟨u, hu, fun h => UnitState.xs.inj (hstate .xs h), fun h => UnitState.mt.inj (hstate .mt h),
    fun h => UnitState.pcg.inj (hstate .pcg h), fun h => UnitState.well.inj (hstate .well h), fun b hb => ?_,
    fun hshuf => ?_, hends.len.trans (heffect.len fun n => hnounit rfl), hends.pending.trans hpending,
    hcmd, hwdata, hseed⟩
  · rw [hends.valid, heffect.valid b fun h => hb (hother h (Instr.unit?_seedOf b))]
  · have hnoshuf : ∀ b, i ≠ shufOf b := fun b h =>
      hshuf (hother h (Instr.unit?_shufOf b) ▸ h)
    refine ⟨fun k => ?_, hends.freeCount.trans (heffect.freeCount (fun _ => hnounit rfl) hnoshuf)⟩
    rw [State.view, State.view, hends.deck, heffect.deck (fun _ => hnounit rfl) hnoshuf]

/-- Settles O18: none of the four commands addresses a unit. -/
theorem deckAndRegisterCommandsTouchNoUnit : Obligations.DeckAndRegisterCommandsTouchNoUnit := by
  intro i s hi
  obtain ⟨hunit, hreset⟩ : i.unit? = none ∧ i ≠ .reset := by
    rcases hi with ⟨n, rfl⟩ | ⟨k, rfl⟩ | ⟨k, rfl⟩ | ⟨r, rfl⟩ <;> exact ⟨rfl, nofun⟩
  obtain ⟨u, hu, e, heffect, hends⟩ := exec_performs i s hreset
  obtain ⟨hxs, hmt, hmtIndex, hpcg, hws, hwellIndex⟩ := State.generatorFields_eq (s := u) (t := s) fun a => by
    rw [hends.unitState, heffect.units a (by simp [hunit])]
  refine ⟨u, hu, hxs, hmt, hmtIndex, hpcg, hws, hwellIndex, ValidBits.ext_get fun a => ?_⟩
  rw [hends.valid, heffect.valid a fun h => by simp [h] at hunit]

end Sys2Proof.Machine
end

section
/-!
PROOFS. The state of units that are not constructed is unobservable (spec/10_state.md R37): every operation does the
same on the state with those units masked.
-/
namespace Sys2Proof.Machine

/-! ## The observable part of a state (R37) -/

/-- The state with the fields of every unit that is not constructed set to 0: what a run can depend on. -/
def State.masked (s : State) : State :=
  { s with
    xsX := bif s.valid.xs then s.xsX else 0#32
    mt := bif s.valid.mt then s.mt else Vector.replicate 624 0#32
    mtIndex := bif s.valid.mt then s.mtIndex else 0
    pcgState := bif s.valid.pcg then s.pcgState else 0#64
    ws := bif s.valid.well then s.ws else Vector.replicate 16 0#32
    wellIndex := bif s.valid.well then s.wellIndex else 0 }

theorem cond_right_inj {α : Type} {b : Bool} {x y z : α} :
    (bif b then x else z) = (bif b then y else z) ↔ (b = true → x = y) := by
  cases b <;> simp

/-- `sameButUnconstructed` is equality of the masked states. -/
theorem State.sameButUnconstructed_iff (s t : State) : s.sameButUnconstructed t ↔ s.masked = t.masked := by
  simp only [State.masked, State.mk.injEq]
  constructor
  · rintro ⟨hvalid, hdeck, hlen, hfault, hfinfo, hport, hpending, hcount, hxs, hmt, hpcg, hwell⟩
    simp only [← hvalid, cond_right_inj]
    exact ⟨hxs, fun h => (hmt h).1, fun h => (hmt h).2, hpcg, fun h => (hwell h).1, fun h => (hwell h).2, trivial,
      hdeck, hlen, hfault, hfinfo, hport, hpending, hcount⟩
  · rintro ⟨hxs, hmt, hmtIndex, hpcg, hws, hwellIndex, hvalid, hdeck, hlen, hfault, hfinfo, hport, hpending,
      hcount⟩
    rw [← hvalid, cond_right_inj] at hxs hmt hmtIndex hpcg hws hwellIndex
    exact ⟨hvalid, hdeck, hlen, hfault, hfinfo, hport, hpending, hcount, hxs, fun h => ⟨hmt h, hmtIndex h⟩, hpcg,
      fun h => ⟨hws h, hwellIndex h⟩⟩

theorem State.masked_masked (s : State) : s.masked.masked = s.masked := by
  simp +contextual [State.masked, cond_right_inj]

theorem State.masked_valid (s : State) : s.masked.valid = s.valid := rfl
theorem State.masked_len (s : State) : s.masked.len = s.len := rfl

theorem State.masked_elementOperand (s : State) : s.masked.elementOperand = s.elementOperand := rfl
theorem State.masked_controlRegister (s : State) (r : Nat) :
    s.masked.controlRegister r = s.controlRegister r := rfl

/-! ## Every operation does the same on the masked state -/

theorem State.masked_respond (s : State) (d : DWord) : s.masked.respond d = (s.respond d).masked := rfl
theorem State.masked_setLen (s : State) (n : BitVec 16) : s.masked.setLen n = (s.setLen n).masked := rfl
theorem State.masked_writeElement (s : State) (k : Nat) (v : Word) :
    s.masked.writeElement k v = (s.writeElement k v).masked := rfl
theorem State.masked_present (s : State) (t : Transaction) (r : List Event) :
    s.masked.present t r = (s.present t r).masked := rfl

theorem State.masked_raise (s : State) (f : FaultCode) (info : DWord) :
    s.masked.raise f info = (s.raise f info).masked := by
  by_cases h : s.fault = 0#4
  · rw [State.raise_of_none h, State.raise_of_none (s := s.masked) h]
    rfl
  · rw [State.raise_of_some h, State.raise_of_some (s := s.masked) h]
    rfl

theorem State.masked_raiseCmd (s : State) (f : FaultCode) : s.masked.raiseCmd f = (s.raiseCmd f).masked :=
  s.masked_raise f s.cmdInfo

theorem State.masked_readElement (s : State) (k : Nat) :
    s.masked.readElement k = ((s.readElement k).1, (s.readElement k).2.masked) := by
  rcases s.readElement_cases k with ⟨v, hv, e⟩ | ⟨hv, e⟩
  · rw [e, State.readElement_of_view (s := s.masked) hv]
  · rw [e]
    rcases s.masked.readElement_cases k with ⟨w, hw, -⟩ | ⟨-, e'⟩
    · cases hw.symm.trans hv
    · exact e'

theorem State.masked_swapElements (s : State) (i j : Nat) :
    s.masked.swapElements i j = (s.swapElements i j).masked := by
  simp only [State.swapElements, State.masked_readElement, State.masked_writeElement]

/-- Writing a constructed unit, or one that becomes constructed, shows in the masked state. -/
theorem State.masked_setUnit {s : State} {u : UnitState} (h : s.valid.get u.unit = true) :
    s.masked.setUnit u = (s.setUnit u).masked := by
  cases u with
  | xs x =>
    have hv : s.valid.xs = true := h
    simp [State.setUnit, State.setXs, State.masked, hv]
  | mt v k =>
    have hv : s.valid.mt = true := h
    simp [State.setUnit, State.setMt, State.masked, hv]
  | pcg x =>
    have hv : s.valid.pcg = true := h
    simp [State.setUnit, State.setPcg, State.masked, hv]
  | well v k =>
    have hv : s.valid.well = true := h
    simp [State.setUnit, State.setWell, State.masked, hv]

theorem State.masked_setUnit_construct (s : State) (u : UnitState) :
    (s.masked.setUnit u).construct u.unit = ((s.setUnit u).construct u.unit).masked := by
  cases u <;> rfl

theorem State.masked_seedState (s : State) (a : GenUnit) : s.masked.seedState a = s.seedState a :=
  State.seedState_congr rfl fun _ _ => rfl

theorem State.masked_seedUnit (s : State) (a : GenUnit) : s.masked.seedUnit a = (s.seedUnit a).masked := by
  have hset := s.masked_setUnit_construct (s.seedState a)
  rw [State.unit_seedState] at hset
  rw [State.seedUnit, State.masked_seedState, hset, State.seedUnit]

theorem State.masked_unitState {s : State} {a : GenUnit} (h : s.valid.get a = true) :
    s.masked.unitState a = s.unitState a := by
  cases a <;> simp_all [ValidBits.get, State.unitState, State.masked]

/-- A constructed unit draws the same from the masked state: NEXTU, NEXTF and SHUF check VALID first. -/
theorem State.masked_draw {s : State} {a : GenUnit} (h : s.valid.get a = true) :
    s.masked.draw a = ((s.draw a).1, (s.draw a).2.masked) := by
  simp only [State.draw_eq, State.masked_unitState h]
  rw [State.masked_setUnit (by simpa using h)]

theorem State.masked_nextWord (s : State) (a : GenUnit) : s.masked.nextWord a = (s.nextWord a).masked := by
  unfold State.nextWord
  rw [State.masked_valid]
  split
  · next h => simp only [State.masked_draw h, State.masked_respond]
  · exact s.masked_raiseCmd _

theorem State.masked_nextFloat (s : State) (a : GenUnit) : s.masked.nextFloat a = (s.nextFloat a).masked := by
  unfold State.nextFloat State.drawFloat
  rw [State.masked_valid]
  split
  · next h => simp only [State.masked_draw h, State.masked_respond]
  · exact s.masked_raiseCmd _

theorem State.masked_shuffleFrom {s : State} {a : GenUnit} (h : s.valid.get a = true) (i : Nat) :
    State.shuffleFrom a i s.masked = (State.shuffleFrom a i s).masked := by
  induction i generalizing s with
  | zero => exact s.masked_respond _
  | succ i ih =>
    simp only [State.shuffleFrom_succ, State.masked_draw h]
    split
    · exact State.masked_raise _ _ _
    · rw [State.masked_swapElements]
      refine ih ?_
      obtain ⟨v, w, n, -, e⟩ := (s.draw a).2.swapElements_frame (i + 1)
        (shufIndex (normDiv (s.draw a).1 (unitDiv a)) (i + 2))
      rw [e, State.withDeck_valid, State.draw_valid, h]

theorem State.masked_shuffle (s : State) (a : GenUnit) : s.masked.shuffle a = (s.shuffle a).masked := by
  unfold State.shuffle
  rw [State.masked_valid, State.masked_len]
  split
  · next h =>
    split
    · exact s.masked_respond _
    · exact State.masked_shuffleFrom h _
  · exact s.masked_raiseCmd _

/-- An instruction other than RESET does the same on the masked state. -/
theorem exec_masked (i : Instr) (s : State) (hi : i ≠ .reset) :
    ∃ u, exec i s = .next u ∧ exec i s.masked = .next u.masked := by
  cases i using Instr.byOperation with
  | seed a => exact ⟨_, exec_seedOf a s, by rw [exec_seedOf, State.masked_seedUnit, State.masked_respond]⟩
  | nextu a => exact ⟨_, exec_nextuOf a s, by rw [exec_nextuOf, State.masked_nextWord]⟩
  | nextf a => exact ⟨_, exec_nextfOf a s, by rw [exec_nextfOf, State.masked_nextFloat]⟩
  | shuf a => exact ⟨_, exec_shufOf a s, by rw [exec_shufOf, State.masked_shuffle]⟩
  | dklen n =>
    refine ⟨_, rfl, ?_⟩
    simp only [exec, execDklen, State.masked_raiseCmd, State.masked_setLen, State.masked_respond,
      apply_ite State.masked]
  | dkwr k =>
    refine ⟨_, rfl, ?_⟩
    simp only [exec, execDkwr, State.masked_raiseCmd, State.masked_len, State.masked_elementOperand,
      State.masked_writeElement, State.masked_respond, apply_ite State.masked]
  | dkrd k =>
    refine ⟨_, rfl, ?_⟩
    simp only [exec, execDkrd, State.masked_raiseCmd, State.masked_len, State.masked_readElement,
      State.masked_respond, apply_ite State.masked]
  | rdcr r =>
    refine ⟨_, rfl, ?_⟩
    simp only [exec, execRdcr, State.masked_controlRegister]
    split
    · rw [State.masked_respond]
    · rw [State.masked_raiseCmd]
  | reset => exact absurd rfl hi

/-- With RESET only the masked states are equal: the reset state has free values in every unit. -/
theorem exec_masked_eq (i : Instr) (s : State) :
    ∃ u v, exec i s = .next u ∧ exec i s.masked = .next v ∧ v.masked = u.masked := by
  by_cases hi : i = .reset
  · subst hi
    exact ⟨_, _, exec_reset s, exec_reset s.masked, rfl⟩
  · obtain ⟨u, hu, hm⟩ := exec_masked i s hi
    exact ⟨u, u.masked, hu, hm, u.masked_masked⟩

/-- A step from the masked state answers a state that is the same when masked. -/
theorem step_masked (s : State) :
    ∃ u v, step s = .next u ∧ step s.masked = .next v ∧ v.masked = u.masked := by
  rcases step_cases s with ⟨hp, h⟩ | ⟨t, rest, i, hp, hd, h⟩ | ⟨t, rest, r, hp, hd, h⟩ | ⟨rest, hp, h⟩ |
    ⟨t, rest, hp, h⟩
  · exact ⟨s, s.masked, h, step_of_nil hp, s.masked_masked⟩
  · obtain ⟨u, v, hu, hv, huv⟩ := exec_masked_eq i (s.present t rest)
    exact ⟨u, v, h.trans hu, (step_of_legal (s := s.masked) hp hd).trans hv, huv⟩
  · refine ⟨_, _, h, step_of_illegal (s := s.masked) hp hd, ?_⟩
    rw [State.masked_present, State.masked_raiseCmd, State.masked_masked]
  · exact ⟨_, _, h, step_of_hardReset (s := s.masked) hp, rfl⟩
  · exact ⟨_, _, h, step_of_aborted (s := s.masked) hp, rfl⟩

/-- Settles O13: both steps answer what the step from the common masked state answers. -/
theorem unconstructedStateIsUnobservable : Obligations.UnconstructedStateIsUnobservable := by
  intro s t u v hst hu hv
  obtain ⟨u', w, hu', hw, huw⟩ := step_masked s
  obtain ⟨v', w', hv', hw', hvw⟩ := step_masked t
  cases hu'.symm.trans hu
  cases hv'.symm.trans hv
  rw [(s.sameButUnconstructed_iff t).1 hst] at hw
  cases hw.symm.trans hw'
  have huv : u.masked = v.masked := huw.symm.trans hvw
  have hport : u.port = v.port := (congrArg State.port huv :)
  exact ⟨(u.sameButUnconstructed_iff v).2 huv, by rw [hport], by rw [hport]⟩

end Sys2Proof.Machine
end

section
/-!
PROOFS. The stream of a unit depends on its seed alone, and commands to different units commute (spec/10_state.md
R35).
-/
namespace Sys2Proof.Machine

/-! ## Streams (R35, R210) -/

theorem State.seed32_eq_zero_iff (s : State) : s.seed32 = 0#32 ↔ s.port.wdata.toNat % 2 ^ 32 = 0 := by
  simp [State.seed32, ← BitVec.toNat_inj]

/-- Settles O20: the seeded units are equal, so their streams are. -/
theorem streamDependsOnlyOnTheSeed : Obligations.StreamDependsOnlyOnTheSeed := by
  intro a s t hw hd
  refine ⟨_, _, exec_seedOf a s, exec_seedOf a t, State.sample_congr ?_⟩
  simpa [State.unitState_seedUnit] using
    State.seedState_congr hw fun ha h0 => hd ha (s.seed32_eq_zero_iff.1 h0)

/-! ## A unit's command that does not fault -/

/-- What SEED, NEXTU or NEXTF of unit a does to the state before it responds. -/
def State.unitNext (s : State) (a : GenUnit) (i : Instr) : State :=
  if i = seedOf a then s.seedUnit a else (s.draw a).2

/-- What it responds: nothing, the Sample, or the float of the Sample. -/
def State.unitResult (s : State) (a : GenUnit) (i : Instr) : DWord :=
  if i = seedOf a then 0#64
  else if i = nextuOf a then zext64 (s.draw a).1
  else f64bits (normDiv (s.draw a).1 (unitDiv a))

theorem exec_unitCommand {a : GenUnit} {i : Instr} {s : State} (hi : isUnitCommand a i)
    (hv : i = seedOf a ∨ s.valid.get a = true) :
    exec i s = .next ((s.unitNext a i).respond (s.unitResult a i)) := by
  have hu : nextuOf a ≠ seedOf a := by cases a <;> simp [nextuOf, seedOf]
  have hf : nextfOf a ≠ seedOf a := by cases a <;> simp [nextfOf, seedOf]
  have hfu : nextfOf a ≠ nextuOf a := by cases a <;> simp [nextfOf, nextuOf]
  rcases hi with rfl | rfl | rfl
  · simp [exec_seedOf, State.unitNext, State.unitResult]
  · simp [exec_nextuOf, State.nextWord, State.unitNext, State.unitResult, hu, hv.resolve_left hu]
  · simp [exec_nextfOf, State.nextFloat, State.unitNext, State.unitResult, hf, hfu, hv.resolve_left hf]

@[simp] theorem State.systemState_unitNext (s : State) (a : GenUnit) (i : Instr) :
    (s.unitNext a i).systemState = s.systemState := by
  unfold State.unitNext
  split <;> simp

theorem State.unitNext_valid (s : State) (a : GenUnit) (i : Instr) (c : GenUnit) :
    (s.unitNext a i).valid.get c = if i = seedOf a ∧ c = a then true else s.valid.get c := by
  unfold State.unitNext
  split <;> simp [ValidBits.get_construct, *]

theorem State.unitState_unitNext_ne (s : State) {a c : GenUnit} (h : c ≠ a) (i : Instr) :
    (s.unitNext a i).unitState c = s.unitState c := by
  unfold State.unitNext
  split
  · rw [State.unitState_seedUnit, if_neg h]
  · rw [State.unitState_draw, if_neg h]

/-- The command reads its inputs and its own unit only. -/
theorem State.unitNext_congr {s t : State} {a : GenUnit} (hw : s.port.wdata = t.port.wdata)
    (hd : s.port.dfltSeed = t.port.dfltSeed) (hu : s.unitState a = t.unitState a) (i : Instr) :
    (s.unitNext a i).unitState a = (t.unitNext a i).unitState a ∧ s.unitResult a i = t.unitResult a i := by
  obtain ⟨hword, hnext⟩ := State.draw_congr hu
  refine ⟨?_, by simp only [State.unitResult, hword]⟩
  unfold State.unitNext
  split
  · simpa [State.unitState_seedUnit] using State.seedState_congr hw fun _ _ => hd
  · exact hnext

/-! ## Two commands to different units -/

theorem State.sameCore_of_parts {s t : State} (hsys : s.systemState = t.systemState)
    (hvalid : ∀ c, s.valid.get c = t.valid.get c) (hunits : ∀ c, s.unitState c = t.unitState c) :
    s.sameCore t := by
  obtain ⟨hdeck, hlen, hfault, hfinfo, hcount⟩ :
      s.deck = t.deck ∧ s.len = t.len ∧ s.fault = t.fault ∧ s.finfo = t.finfo ∧ s.freeCount = t.freeCount := by
    simpa [State.systemState] using hsys
  obtain ⟨hxs, hmt, hmtIndex, hpcg, hws, hwellIndex⟩ := State.generatorFields_eq hunits
  rw [State.sameCore, hxs, hmt, hmtIndex, hpcg, hws, hwellIndex, ValidBits.ext_get hvalid, hdeck, hlen, hfault,
    hfinfo, hcount]

/-- The word of t is a SEED, NEXTU or NEXTF of unit a that does not fault in s: i is a SEED or a is constructed. -/
def State.Accepts (s : State) (a : GenUnit) (i : Instr) (t : Transaction) : Prop :=
  decode t.cmd = .ok i ∧ isUnitCommand a i ∧ (i = seedOf a ∨ s.valid.get a = true)

section
variable {s : State} {a : GenUnit} {i : Instr} {t : Transaction} (h : s.Accepts a i t)
include h

theorem State.Accepts.answer :
    s.answer t = ((s.present t []).unitNext a i).respond ((s.present t []).unitResult a i) := by
  obtain ⟨hd, hi, hv⟩ := h
  have hstep := (step_of_legal (s := s.setPending [.command t]) rfl hd).trans (exec_unitCommand hi hv)
  rw [State.answer, hstep]
  rfl

theorem State.Accepts.faultOut : (s.answer t).port.faultOut = 0#4 := by simp [h.answer]

theorem State.Accepts.systemState : (s.answer t).systemState = s.systemState := by simp [h.answer]

theorem State.Accepts.valid (c : GenUnit) :
    (s.answer t).valid.get c = if i = seedOf a ∧ c = a then true else s.valid.get c := by
  simp [h.answer, State.unitNext_valid]

theorem State.Accepts.unitState_ne {c : GenUnit} (hc : c ≠ a) : (s.answer t).unitState c = s.unitState c := by
  simp [h.answer, State.unitState_unitNext_ne _ hc]

/-- The answer depends on the transaction and on the unit's state only. -/
theorem State.Accepts.congr {s' : State} (h' : s'.Accepts a i t) (hu : s.unitState a = s'.unitState a) :
    (s.answer t).unitState a = (s'.answer t).unitState a ∧
      (s.answer t).port.rdata = (s'.answer t).port.rdata := by
  have hcongr := State.unitNext_congr (s := s.present t []) (t := s'.present t []) rfl rfl (by simpa using hu) i
  simpa [h.answer, h'.answer] using hcongr

/-- A command of another unit is still accepted afterwards. -/
theorem State.Accepts.after {b : GenUnit} {j : Instr} {u : Transaction} (hab : a ≠ b) (hu : s.Accepts b j u) :
    (s.answer t).Accepts b j u := by
  obtain ⟨hd, hj, hv⟩ := hu
  refine ⟨hd, hj, hv.imp_right fun hb => ?_⟩
  rw [h.valid, if_neg fun hc => hab hc.2.symm, hb]

end

section
variable {s : State} {a b : GenUnit} {i j : Instr} {t u : Transaction} (hab : a ≠ b) (ht : s.Accepts a i t)
  (hu : s.Accepts b j u)
include hab ht hu

/-- After a command of another unit a command leaves its unit and answers as if it came first. -/
theorem State.answer_answer_second :
    ((s.answer t).answer u).unitState b = (s.answer u).unitState b ∧
      ((s.answer t).answer u).port.rdata = (s.answer u).port.rdata :=
  (ht.after hab hu).congr hu (ht.unitState_ne hab.symm)

/-- In either order the first unit ends as its own command leaves it. -/
theorem State.answer_answer_unitState :
    ((s.answer t).answer u).unitState a = ((s.answer u).answer t).unitState a :=
  ((ht.after hab hu).unitState_ne hab).trans (State.answer_answer_second hab.symm hu ht).1.symm

theorem State.answer_answer_sameCore : ((s.answer t).answer u).sameCore ((s.answer u).answer t) := by
  have htu := ht.after hab hu
  have hut := hu.after hab.symm ht
  refine State.sameCore_of_parts ?_ (fun c => ?_) (fun c => ?_)
  · rw [htu.systemState, ht.systemState, hut.systemState, hu.systemState]
  · rw [htu.valid, ht.valid, hut.valid, hu.valid]
    split_ifs <;> rfl
  · by_cases hca : c = a
    · rw [hca, State.answer_answer_unitState hab ht hu]
    by_cases hcb : c = b
    · rw [hcb, State.answer_answer_unitState hab.symm hu ht]
    · rw [htu.unitState_ne hcb, ht.unitState_ne hca, hut.unitState_ne hca, hu.unitState_ne hcb]

end

/-- Settles O19: each unit ends as its own command leaves it, and no command touches what is not of its unit. -/
theorem commandsToDifferentUnitsCommute : Obligations.CommandsToDifferentUnitsCommute := by
  intro s a b t u i j hab hdt hdu hi hj hva hvb
  have ht : s.Accepts a i t := ⟨hdt, hi, hva⟩
  have hu : s.Accepts b j u := ⟨hdu, hj, hvb⟩
  exact ⟨State.answer_answer_sameCore hab ht hu, (State.answer_answer_second hab ht hu).2,
    (State.answer_answer_second hab.symm hu ht).2, (ht.after hab hu).faultOut, (hu.after hab.symm ht).faultOut,
    ht.faultOut, hu.faultOut⟩

end Sys2Proof.Machine
end

section
/-!
PROOFS. The forms of a command (spec/30_encoding.md R71 to R76): every operation takes a unit, or an immediate, or
neither. For each form: its command word, what the decoder answers on a word of it, and its row of the table.
-/
namespace Sys2Proof
open Laws

/-! ## A packed word and its fields, as numbers -/

theorem packC_toNat (o : BitVec 4) (a : BitVec 2) (m : BitVec 16) :
    (packC o a m).toNat = o.toNat * 2 ^ 28 + a.toNat * 2 ^ 26 + m.toNat := by
  have happend {v w : Nat} (x : BitVec v) (y : BitVec w) : (x ++ y).toNat = x.toNat * 2 ^ w + y.toNat := by
    rw [BitVec.toNat_append, ← Nat.shiftLeft_add_eq_or_of_lt y.isLt, Nat.shiftLeft_eq]
  rw [packC, happend, happend, happend, BitVec.toNat_ofNat]
  omega

theorem cmdOpc_toNat (c : Word) : (cmdOpc c).toNat = c.toNat / 2 ^ 28 := by
  simp only [cmdOpc, BitVec.extractLsb'_toNat, Nat.shiftRight_eq_div_pow]
  omega

theorem cmdAlg_toNat (c : Word) : (cmdAlg c).toNat = c.toNat / 2 ^ 26 % 4 := by
  simp only [cmdAlg, BitVec.extractLsb'_toNat, Nat.shiftRight_eq_div_pow, Nat.reducePow]

theorem cmdZero_toNat (c : Word) : (cmdZero c).toNat = c.toNat / 2 ^ 16 % 2 ^ 10 := by
  simp only [cmdZero, BitVec.extractLsb'_toNat, Nat.shiftRight_eq_div_pow]

theorem cmdImm_toNat (c : Word) : (cmdImm c).toNat = c.toNat % 2 ^ 16 := by
  simp only [cmdImm, BitVec.extractLsb'_toNat, Nat.shiftRight_zero]

/-! ## Packing and the fields are inverse -/

@[simp] theorem cmdOpc_packC (o : BitVec 4) (a : BitVec 2) (m : BitVec 16) : cmdOpc (packC o a m) = o := by
  apply BitVec.eq_of_toNat_eq
  rw [cmdOpc_toNat, packC_toNat]
  omega

@[simp] theorem cmdAlg_packC (o : BitVec 4) (a : BitVec 2) (m : BitVec 16) : cmdAlg (packC o a m) = a := by
  apply BitVec.eq_of_toNat_eq
  rw [cmdAlg_toNat, packC_toNat]
  omega

@[simp] theorem cmdImm_packC (o : BitVec 4) (a : BitVec 2) (m : BitVec 16) : cmdImm (packC o a m) = m := by
  apply BitVec.eq_of_toNat_eq
  rw [cmdImm_toNat, packC_toNat]
  omega

/-- A word with a clear `zero` field is packed from its other fields. -/
theorem packC_fields {c : Word} (hz : cmdZero c = 0#10) : packC (cmdOpc c) (cmdAlg c) (cmdImm c) = c := by
  have hzero : c.toNat / 2 ^ 16 % 2 ^ 10 = 0 := by rw [← cmdZero_toNat, hz]; rfl
  apply BitVec.eq_of_toNat_eq
  rw [packC_toNat, cmdOpc_toNat, cmdAlg_toNat, cmdImm_toNat]
  omega

/-- A word whose upper half is that of a command with immediate 0 is the command with the word's own immediate. -/
theorem eq_packC_of_upper {c : Word} {o : BitVec 4} {a : BitVec 2} (h : c &&& 0xFFFF0000#32 = packC o a 0#16) :
    c = packC o a (cmdImm c) := by
  have hupper : c &&& 0xFFFF0000#32 = packC o a (cmdImm c) &&& 0xFFFF0000#32 := by rw [h, packC_upper]
  have hlower : cmdImm c = cmdImm (packC o a (cmdImm c)) := by rw [cmdImm_packC]
  have hmask : ∀ k < 32, (0xFFFF0000#32).getLsbD k = decide (16 ≤ k) := by decide
  apply BitVec.eq_of_getLsbD_eq
  intro k hk
  by_cases hlow : k < 16
  · simpa [cmdImm, hlow] using congrArg (·.getLsbD k) hlower
  · simpa [hmask k hk, Nat.le_of_not_lt hlow] using congrArg (·.getLsbD k) hupper

/-! ## The operations that take a unit (R75) and those that take an immediate (R73) -/

/-- `o` is the `opc` of an operation that takes a unit and no immediate. -/
inductive UnitOp : BitVec 4 → (GenUnit → Instr) → Prop
  | seed : UnitOp 1#4 seedOf
  | nextu : UnitOp 2#4 nextuOf
  | nextf : UnitOp 3#4 nextfOf
  | shuf : UnitOp 4#4 shufOf

/-- `o` is the `opc` of an operation that takes an immediate and no unit. -/
inductive ImmOp : BitVec 4 → (BitVec 16 → Instr) → Prop
  | dklen : ImmOp 5#4 .dklen
  | dkwr : ImmOp 6#4 .dkwr
  | dkrd : ImmOp 7#4 .dkrd
  | rdcr : ImmOp 8#4 .rdcr

/-- Every instruction is of one of the two forms, or RESET. -/
theorem Instr.byForm {motive : Instr → Prop} (unit : ∀ o f (_ : UnitOp o f) (a : GenUnit), motive (f a))
    (imm : ∀ o f (_ : ImmOp o f) (m : BitVec 16), motive (f m)) (reset : motive .reset) (i : Instr) : motive i :=
  i.byOperation (unit _ _ .seed) (unit _ _ .nextu) (unit _ _ .nextf) (unit _ _ .shuf) (imm _ _ .dklen)
    (imm _ _ .dkwr) (imm _ _ .dkrd) (imm _ _ .rdcr) reset

/-- The `alg` field that names a unit (R75). -/
def GenUnit.alg : GenUnit → BitVec 2
  | .xs => 0#2
  | .mt => 1#2
  | .pcg => 2#2
  | .well => 3#2

@[simp] theorem unitOfAlg_alg (a : GenUnit) : unitOfAlg a.alg = a := by cases a <;> rfl

@[simp] theorem alg_unitOfAlg (x : BitVec 2) : (unitOfAlg x).alg = x := by
  revert x
  decide

section
variable {o : BitVec 4} {f : GenUnit → Instr} (op : UnitOp o f)
include op

theorem UnitOp.opc_range : 1 ≤ o.toNat ∧ o.toNat ≤ 4 := by cases op <;> decide

theorem UnitOp.wf (a : GenUnit) : (f a).wf = true := by cases op <;> cases a <;> rfl

theorem UnitOp.encode_eq (a : GenUnit) : encode (f a) = packC o a.alg 0#16 := by cases op <;> cases a <;> rfl

theorem UnitOp.rowMask_eq (a : GenUnit) : (f a).rowMask = BitVec.allOnes 32 := by cases op <;> cases a <;> rfl

theorem UnitOp.decode_eq {c : Word} (hz : cmdZero c = 0#10) (ho : cmdOpc c = o) :
    decode c = decodeUnit c f := by
  cases op <;> simp [decode, hz, ho]

end

section
variable {o : BitVec 4} {f : BitVec 16 → Instr} (op : ImmOp o f)
include op

theorem ImmOp.opc_range : 5 ≤ o.toNat ∧ o.toNat ≤ 8 := by cases op <;> decide

/-- The one immediate that is checked is the register number of RDCR (R76). -/
theorem ImmOp.wf_iff (m : BitVec 16) : (f m).wf = true ↔ ¬ (o.toNat = 8 ∧ 2 < m.toNat) := by
  cases op <;> simp [Instr.wf]

theorem ImmOp.encode_eq (m : BitVec 16) : encode (f m) = packC o 0#2 m := by cases op <;> rfl

theorem ImmOp.rowMatch_eq (m : BitVec 16) : (f m).rowMatch = packC o 0#2 0#16 := by cases op <;> rfl

theorem ImmOp.rowMask_eq (m : BitVec 16) : (f m).rowMask = 0xFFFF0000#32 := by cases op <;> rfl

theorem ImmOp.decode_eq {c : Word} (hz : cmdZero c = 0#10) (ho : cmdOpc c = o) :
    decode c =
      if cmdAlg c ≠ 0#2 then .error .unitFieldSet
      else if (f (cmdImm c)).wf then .ok (f (cmdImm c)) else .error .noSuchRegister := by
  cases op with
  | rdcr => simp [decode, hz, ho, decodeRdcr, Instr.wf, ← ite_not (2 < _)]
  | dklen => simp [decode, hz, ho, decodeImm, Instr.wf]
  | dkwr => simp [decode, hz, ho, decodeImm, Instr.wf]
  | dkrd => simp [decode, hz, ho, decodeImm, Instr.wf]

end

/-! ## RESET and the words outside every operation (R76) -/

theorem decode_of_zeroField {c : Word} (hz : cmdZero c ≠ 0#10) : decode c = .error .zeroFieldSet := if_pos hz

theorem decode_of_reset {c : Word} (hz : cmdZero c = 0#10) (ho : cmdOpc c = 9#4) : decode c = decodeReset c := by
  simp [decode, hz, ho]

theorem decode_of_reserved {c : Word} (hz : cmdZero c = 0#10)
    (ho : (cmdOpc c).toNat = 0 ∨ 10 ≤ (cmdOpc c).toNat) : decode c = .error .reservedOpcode := by
  unfold decode
  rw [if_neg (not_not.2 hz)]
  split
  case h_10 => rfl
  all_goals omega

/-- An operation number is one of the two forms, or RESET, or reserved. -/
theorem opc_cases (o : BitVec 4) :
    (∃ f, UnitOp o f) ∨ (∃ f, ImmOp o f) ∨ o = 9#4 ∨ (o.toNat = 0 ∨ 10 ≤ o.toNat) := by
  have hnumber : ∀ o : BitVec 4, o = 1#4 ∨ o = 2#4 ∨ o = 3#4 ∨ o = 4#4 ∨ o = 5#4 ∨ o = 6#4 ∨ o = 7#4 ∨ o = 8#4 ∨
      o = 9#4 ∨ (o.toNat = 0 ∨ 10 ≤ o.toNat) := by decide
  obtain rfl | rfl | rfl | rfl | rfl | rfl | rfl | rfl | h := hnumber o
  · exact .inl ⟨_, .seed⟩
  · exact .inl ⟨_, .nextu⟩
  · exact .inl ⟨_, .nextf⟩
  · exact .inl ⟨_, .shuf⟩
  · exact .inr (.inl ⟨_, .dklen⟩)
  · exact .inr (.inl ⟨_, .dkwr⟩)
  · exact .inr (.inl ⟨_, .dkrd⟩)
  · exact .inr (.inl ⟨_, .rdcr⟩)
  · exact .inr (.inr h)

/-! ## Decoding a word of each form -/

theorem decodeUnit_eq_ok {c : Word} {f : GenUnit → Instr} {i : Instr} :
    decodeUnit c f = .ok i ↔ cmdImm c = 0#16 ∧ f (unitOfAlg (cmdAlg c)) = i := by
  by_cases hm : cmdImm c = 0#16 <;> simp [decodeUnit, hm]

theorem decodeReset_eq_ok {c : Word} {i : Instr} :
    decodeReset c = .ok i ↔ cmdAlg c = 0#2 ∧ cmdImm c = 0#16 ∧ .reset = i := by
  by_cases ha : cmdAlg c = 0#2 <;> by_cases hm : cmdImm c = 0#16 <;> simp [decodeReset, ha, hm]

theorem ImmOp.decode_eq_ok {c : Word} {f : BitVec 16 → Instr} {i : Instr} (op : ImmOp (cmdOpc c) f)
    (hz : cmdZero c = 0#10) : decode c = .ok i ↔ cmdAlg c = 0#2 ∧ i.wf = true ∧ f (cmdImm c) = i := by
  rw [op.decode_eq hz rfl]
  by_cases ha : cmdAlg c = 0#2
  · by_cases hw : (f (cmdImm c)).wf
    · simpa [ha, hw] using fun h : f (cmdImm c) = i => h ▸ hw
    · simpa [ha, hw] using fun (hi : i.wf = true) (h : f (cmdImm c) = i) => hw (h ▸ hi)
  · simp [ha]

end Sys2Proof
end

section
/-!
PROOFS. The statements of spec/30_encoding.md: decoder and encoder (R71, R74, R76), illegal words (R76, R182) and the
step that runs the decoded command (R78).
-/
namespace Sys2Proof
open Laws

/-! ## Decoding an encoding -/

/-- An instruction's word decodes to it; the one instruction that is not well formed is rejected by name. -/
theorem decode_encode (i : Instr) :
    decode (encode i) = if i.wf then .ok i else .error .noSuchRegister := by
  induction i using Instr.byForm with
  | unit o f op a =>
    rw [op.encode_eq, op.decode_eq (packC_zero ..) (cmdOpc_packC ..), op.wf, if_pos rfl, decodeUnit_eq_ok]
    simp
  | imm o f op m =>
    rw [op.encode_eq, op.decode_eq (packC_zero ..) (cmdOpc_packC ..)]
    simp
  | reset => rfl

/-- Settles O1: the case of `decode_encode` with a well-formed instruction. -/
theorem decodeOfEncodeIsTheInstruction : Obligations.DecodeOfEncodeIsTheInstruction :=
  fun i hwf => (decode_encode i).trans (if_pos hwf)

/-! ## Encoding what was decoded -/

/-- A word that decodes is the word of a well-formed instruction. -/
theorem encode_of_decode {c : Word} {i : Instr} (h : decode c = .ok i) : i.wf = true ∧ encode i = c := by
  by_cases hz : cmdZero c = 0#10
  · obtain ⟨f, op⟩ | ⟨f, op⟩ | ho | ho := opc_cases (cmdOpc c)
    · rw [op.decode_eq hz rfl] at h
      obtain ⟨hm, rfl⟩ := decodeUnit_eq_ok.1 h
      exact ⟨op.wf _, by rw [op.encode_eq, alg_unitOfAlg, ← hm, packC_fields hz]⟩
    · obtain ⟨ha, hwf, rfl⟩ := (op.decode_eq_ok hz).1 h
      exact ⟨hwf, by rw [op.encode_eq, ← ha, packC_fields hz]⟩
    · rw [decode_of_reset hz ho] at h
      obtain ⟨ha, hm, rfl⟩ := decodeReset_eq_ok.1 h
      exact ⟨rfl, by rw [← packC_fields hz, ho, ha, hm]; rfl⟩
    · rw [decode_of_reserved hz ho] at h
      cases h
  · rw [decode_of_zeroField hz] at h
    cases h

/-- An instruction's word lies in the instruction's row (R74). -/
theorem encode_inRow (i : Instr) : encode i &&& i.rowMask = i.rowMatch := by
  induction i using Instr.byForm with
  | unit o f op a => cases op <;> cases a <;> rfl
  | imm o f op m => rw [op.encode_eq, op.rowMask_eq, op.rowMatch_eq, packC_upper]
  | reset => rfl

/-- Settles O2: a decoded word is the instruction's own, which lies in its row. -/
theorem decodedWordIsItsEncoding : Obligations.DecodedWordIsItsEncoding := by
  intro c i h
  obtain ⟨hwf, rfl⟩ := encode_of_decode h
  exact ⟨hwf, rfl, encode_inRow i⟩

/-! ## The rows of the table (R74) -/

/-- A word in the row of an instruction is the word of an instruction of that row. -/
theorem exists_encode_of_inRow {c : Word} {i : Instr} (h : c &&& i.rowMask = i.rowMatch) :
    ∃ j, encode j = c ∧ j.rowMatch = i.rowMatch ∧ j.rowMask = i.rowMask := by
  induction i using Instr.byForm with
  | unit o f op a =>
    have hown := encode_inRow (f a)
    rw [op.rowMask_eq, BitVec.and_allOnes] at h hown
    exact ⟨f a, hown.trans h.symm, rfl, rfl⟩
  | imm o f op m =>
    rw [op.rowMask_eq, op.rowMatch_eq] at h
    refine ⟨f (cmdImm c), ?_, ?_, ?_⟩
    · rw [op.encode_eq, ← eq_packC_of_upper h]
    · rw [op.rowMatch_eq, op.rowMatch_eq]
    · rw [op.rowMask_eq, op.rowMask_eq]
  | reset => exact ⟨.reset, by rw [← BitVec.and_allOnes (x := c)]; exact h.symm, rfl, rfl⟩

/-- Only RDCR of a register that does not exist is not well formed (R76). -/
theorem Instr.eq_rdcr_of_not_wf {i : Instr} (h : i.wf ≠ true) : ∃ r, i = .rdcr r ∧ 2 < r.toNat := by
  cases i with
  | rdcr r => exact ⟨r, rfl, by simpa [Instr.wf] using h⟩
  | _ => exact absurd rfl h

/-- No two instructions share a word: the decoder tells the well-formed ones apart, and the immediate the others. -/
theorem encode_injective : Function.Injective encode := by
  intro i j h
  have hdec : decode (encode i) = decode (encode j) := by rw [h]
  rw [decode_encode, decode_encode] at hdec
  by_cases hi : i.wf <;> by_cases hj : j.wf
  · simpa [hi, hj] using hdec
  · simp [hi, hj] at hdec
  · simp [hi, hj] at hdec
  · obtain ⟨r, rfl, -⟩ := Instr.eq_rdcr_of_not_wf hi
    obtain ⟨q, rfl, -⟩ := Instr.eq_rdcr_of_not_wf hj
    have himm : cmdImm (encode (.rdcr r)) = cmdImm (encode (.rdcr q)) := by rw [h]
    rw [ImmOp.rdcr.encode_eq, ImmOp.rdcr.encode_eq, cmdImm_packC, cmdImm_packC] at himm
    rw [himm]

/-- Settles O3: a word of a row is the word of one instruction, which is of that row. -/
theorem tableRowsDecodeAndDoNotOverlap : Obligations.TableRowsDecodeAndDoNotOverlap := by
  constructor
  · intro c i h
    obtain ⟨j, rfl, hmatch, hmask⟩ := exists_encode_of_inRow h
    by_cases hwf : j.wf
    · exact .inl ⟨j, by rw [decode_encode, if_pos hwf], hmatch, hmask⟩
    · have hdec : decode (encode j) = .error .noSuchRegister := by rw [decode_encode, if_neg hwf]
      obtain ⟨r, rfl, hr⟩ := Instr.eq_rdcr_of_not_wf hwf
      exact .inr ⟨hmatch.symm, by rwa [ImmOp.rdcr.encode_eq, cmdImm_packC], hdec⟩
  · intro c i j hi hj
    obtain ⟨k, hk, hkmatch, hkmask⟩ := exists_encode_of_inRow hi
    obtain ⟨l, hl, hlmatch, hlmask⟩ := exists_encode_of_inRow hj
    obtain rfl : k = l := encode_injective (hk.trans hl.symm)
    exact ⟨hkmatch.symm.trans hlmatch, hkmask.symm.trans hlmask⟩

/-! ## Illegal words (R76) -/

theorem isError_iff_not_isOk {r : Except Reject Instr} : (∃ e, r = .error e) ↔ ¬ ∃ i, r = .ok i := by
  cases r <;> simp

theorem decodeUnit_eq_error_iff {c : Word} {f : GenUnit → Instr} :
    (∃ e, decodeUnit c f = .error e) ↔ (cmdImm c).toNat ≠ 0 := by
  simp [isError_iff_not_isOk, decodeUnit_eq_ok, BitVec.toNat_eq]

theorem decodeReset_eq_error_iff {c : Word} :
    (∃ e, decodeReset c = .error e) ↔ (cmdAlg c).toNat ≠ 0 ∨ (cmdImm c).toNat ≠ 0 := by
  simp [isError_iff_not_isOk, decodeReset_eq_ok, BitVec.toNat_eq, -not_and, not_and_or]

theorem ImmOp.decode_eq_error_iff {c : Word} {f : BitVec 16 → Instr} (op : ImmOp (cmdOpc c) f)
    (hz : cmdZero c = 0#10) :
    (∃ e, decode c = .error e) ↔
      (cmdAlg c).toNat ≠ 0 ∨ ((cmdOpc c).toNat = 8 ∧ 2 < (cmdImm c).toNat) := by
  have hwf : (f (cmdImm c)).wf = false ↔ (cmdOpc c).toNat = 8 ∧ 2 < (cmdImm c).toNat := by
    rw [← Bool.not_eq_true, op.wf_iff, not_not]
  rw [← hwf]
  simp [isError_iff_not_isOk, op.decode_eq_ok hz, BitVec.toNat_eq, -not_and, not_and_or]

/-- R76 on the fields of the word: each form excludes the field it does not use, and RDCR the registers above 2. -/
theorem decode_eq_error_iff (c : Word) :
    (∃ e, decode c = .error e) ↔
      ((cmdOpc c).toNat = 0 ∨ 10 ≤ (cmdOpc c).toNat ∨ (cmdZero c).toNat ≠ 0 ∨
        (5 ≤ (cmdOpc c).toNat ∧ (cmdOpc c).toNat ≤ 9 ∧ (cmdAlg c).toNat ≠ 0) ∨
        (((cmdOpc c).toNat ≤ 4 ∨ (cmdOpc c).toNat = 9) ∧ (cmdImm c).toNat ≠ 0) ∨
        ((cmdOpc c).toNat = 8 ∧ 2 < (cmdImm c).toNat)) := by
  by_cases hz : cmdZero c = 0#10
  · have hzero : (cmdZero c).toNat = 0 := by rw [hz]; rfl
    obtain ⟨f, op⟩ | ⟨f, op⟩ | ho | ho := opc_cases (cmdOpc c)
    · have hrange := op.opc_range
      rw [op.decode_eq hz rfl, decodeUnit_eq_error_iff]
      omega
    · have hrange := op.opc_range
      rw [op.decode_eq_error_iff hz]
      omega
    · have hnine : (cmdOpc c).toNat = 9 := by rw [ho]; rfl
      rw [decode_of_reset hz ho, decodeReset_eq_error_iff]
      omega
    · exact iff_of_true ⟨_, decode_of_reserved hz ho⟩ (by omega)
  · have hzero : (cmdZero c).toNat ≠ 0 := fun h => hz (BitVec.eq_of_toNat_eq h)
    exact iff_of_true ⟨_, decode_of_zeroField hz⟩ (.inr (.inr (.inl hzero)))

end Sys2Proof

namespace Sys2Proof.Machine

/-! ## The step on a presented word -/

/-- Raising a fault is the spec's rule for the response and the record (R190). -/
theorem State.raise_eq_faulted (s : State) (f : FaultCode) (info : DWord) :
    s.raise f info = s.faulted f.code info := by
  rw [State.raise_frame, State.raise_fault, State.raise_finfo, State.faulted]

/-- Settles O5: `decode_eq_error_iff` with the fields written as numbers, and the raise of ILLEGAL_CMD. -/
theorem illegalWordsAreTheListedOnesAndFault : Obligations.IllegalWordsAreTheListedOnesAndFault := by
  constructor
  · intro c
    rw [← cmdOpc_toNat, ← cmdAlg_toNat, ← cmdZero_toNat, ← cmdImm_toNat]
    exact decode_eq_error_iff c
  · intro s t rest e hp hd
    rw [step_of_illegal hp hd, State.raiseCmd, State.raise_eq_faulted]
    rfl

/-- Settles O4: each of the ten fixed words is decoded by evaluation. -/
theorem specWordsDecode : Obligations.SpecWordsDecode := by
  unfold Obligations.SpecWordsDecode
  decide

/-- Settles O6: the named state is the one with the transaction on the ports. -/
theorem stepRunsTheDecodedCommand : Obligations.StepRunsTheDecodedCommand :=
  fun _ _ _ _ hp hd => step_of_legal hp hd

end Sys2Proof.Machine
end

section
/-!
PROOFS. NEXTU and NEXTF of any unit as responses to one draw (spec/30_encoding.md R78), and the one stream they read
(spec/44_shuffle.md R153).
-/
namespace Sys2Proof.Machine

/-! ## The response of NEXTU and NEXTF -/

/-- A fault with the command word as its info, in the terms of the statements (R181, R190). -/
theorem State.raiseCmd_eq_faulted (s : State) (f : FaultCode) :
    s.raiseCmd f = s.faulted f.code (s.port.cmd.setWidth 64) := s.raise_eq_faulted f s.cmdInfo

theorem exec_nextuOf_of_valid {a : GenUnit} {s : State} (h : s.valid.get a = true) :
    exec (nextuOf a) s = .next ((s.draw a).2.completed ((s.draw a).1.setWidth 64)) := by
  rw [exec_nextuOf, ((s.nextWord_cases a).resolve_right (by simp [h])).2]

theorem exec_nextfOf_of_valid {a : GenUnit} {s : State} (h : s.valid.get a = true) :
    exec (nextfOf a) s = .next ((s.draw a).2.completed (f64bits (normDiv (s.draw a).1 (unitDiv a)))) := by
  rw [exec_nextfOf, ((s.nextFloat_cases a).resolve_right (by simp [h])).2]

theorem exec_nextuOf_of_not_valid {a : GenUnit} {s : State} (h : s.valid.get a = false) :
    exec (nextuOf a) s = .next (s.faulted 4#4 (s.port.cmd.setWidth 64)) := by
  rw [exec_nextuOf, ((s.nextWord_cases a).resolve_left (by simp [h])).2, State.raiseCmd_eq_faulted, FaultCode.code]

theorem exec_nextfOf_of_not_valid {a : GenUnit} {s : State} (h : s.valid.get a = false) :
    exec (nextfOf a) s = .next (s.faulted 4#4 (s.port.cmd.setWidth 64)) := by
  rw [exec_nextfOf, ((s.nextFloat_cases a).resolve_left (by simp [h])).2, State.raiseCmd_eq_faulted, FaultCode.code]

/-! ## The stream -/

/-- Settles O55: draws keep the VALID bits, so after k of them each command makes draw k + 1, whose Sample is word k. -/
theorem nextuAndNextfReadTheOneStream : Obligations.NextuAndNextfReadTheOneStream := by
  intro a s k hv
  have hvk : (State.drawN a k s).valid.get a = true := by rwa [State.drawN_valid]
  rw [State.drawN_succ]
  exact ⟨exec_nextuOf_of_valid hvk, exec_nextfOf_of_valid hvk⟩

end Sys2Proof.Machine
end

section
/-!
PROOFS. The ranges of the floats NEXTF returns and of their patterns (spec/90_conflicts.md C1).
-/
namespace Sys2Proof.Machine

/-! ## The float of XS -/

/-- R103: a word divided by 2^31 lies in [0, 2), and its bit 31 tells on which side of 1. -/
theorem xsQuotient_range (c : Word) :
    0 ≤ (c.toNat : ℚ) / 2 ^ 31 ∧ (c.toNat : ℚ) / 2 ^ 31 ≤ 2 - 1 / 2 ^ 31 ∧
      (1 ≤ (c.toNat : ℚ) / 2 ^ 31 ↔ c.getLsbD 31 = true) := by
  have hmax : (c.toNat : ℚ) + 1 ≤ 2 ^ 32 := by exact_mod_cast c.isLt
  have hbit : c.getLsbD 31 = true ↔ 2 ^ 31 ≤ c.toNat := by
    rw [← BitVec.msb_eq_getLsbD_last, BitVec.msb_eq_decide, decide_eq_true_iff]
  refine ⟨by positivity, ?_, ?_⟩
  · rw [div_le_iff₀ (by positivity)]
    linarith
  · rw [hbit, one_le_div (by positivity)]
    norm_cast

/-! ## The float of MT, PCG and WELL -/

theorem unitDiv_of_ne_xs {a : GenUnit} (h : a ≠ .xs) : unitDiv a = 4294967295 := by
  cases a with
  | xs => exact absurd rfl h
  | mt | pcg | well => rfl

/-- Any other word is at least 2^-32 below 1 before the rounding, which moves it by at most 2^-53. -/
theorem normDiv_u32Div_lt_one {w : Word} (h : w ≠ 0xFFFFFFFF#32) : normDiv w 4294967295 < 1 := by
  have hlt : w.toNat ≤ 4294967294 := by
    have hne : w.toNat ≠ 4294967295 := fun hw => h (BitVec.eq_of_toNat_eq hw)
    have := w.isLt
    omega
  have hle : (w.toNat : ℚ) ≤ 4294967294 := by exact_mod_cast hlt
  have hq : (w.toNat : ℚ) / 4294967295 ≤ 4294967294 / 4294967295 := by gcongr
  have hround := (abs_le.1 (rne64_rel (q := (w.toNat : ℚ) / 4294967295) (by positivity))).2
  rw [normDiv, Nat.cast_ofNat]
  linarith

/-- The closed end of the range is reached by one word only (90_conflicts.md C1). -/
theorem normDiv_u32Div_eq_one_iff (w : Word) : normDiv w 4294967295 = 1 ↔ w = 0xFFFFFFFF#32 := by
  refine ⟨fun h => ?_, fun h => h ▸ normDiv_u32Div_largest⟩
  by_contra hw
  exact (normDiv_u32Div_lt_one hw).ne h

theorem normDiv_u32Div_le_one (w : Word) : normDiv w 4294967295 ≤ 1 := by
  by_cases hw : w = 0xFFFFFFFF#32
  · exact ((normDiv_u32Div_eq_one_iff w).2 hw).le
  · exact (normDiv_u32Div_lt_one hw).le

/-! ## The patterns -/

/-- The significand of a value: its number of ulps, cut to an integer (R9). -/
def significand (v : ℚ) : Nat := ⌊v / pow2 (expOf v - 52)⌋₊

theorem significand_bounds {v : ℚ} (hv : 0 < v) : 2 ^ 52 ≤ significand v ∧ significand v < 2 ^ 53 := by
  obtain ⟨hlo, hhi⟩ := ulps_bounds hv
  refine ⟨Nat.le_floor (by exact_mod_cast hlo), ?_⟩
  rw [significand, Nat.floor_lt (by linarith)]
  exact_mod_cast hhi

theorem significand_mono {v w : ℚ} (h : v ≤ w) (he : expOf v = expOf w) : significand v ≤ significand w := by
  rw [significand, significand, he]
  exact Nat.floor_le_floor (div_le_div_of_nonneg_right h (pow2_pos _).le)

theorem expOf_mono {v w : ℚ} (hv : 0 < v) (h : v ≤ w) : expOf v ≤ expOf w := by
  have hlt := ((expOf_spec hv).1.trans h).trans_lt (expOf_spec (hv.trans_le h)).2
  have := pow2_lt_pow2 hlt
  omega

theorem expOf_normal {v : ℚ} (hlo : pow2 (-1022) ≤ v) (hhi : v < pow2 1024) : -1022 ≤ expOf v ∧ expOf v ≤ 1023 := by
  obtain ⟨hexplo, hexphi⟩ := expOf_spec ((pow2_pos _).trans_le hlo)
  have := pow2_lt_pow2 (hlo.trans_lt hexphi)
  have := pow2_lt_pow2 (hexplo.trans_lt hhi)
  omega

/-- The pattern of a value in the normal range is its exponent and its significand. -/
theorem toNat_f64bits {v : ℚ} (hlo : pow2 (-1022) ≤ v) (hhi : v < pow2 1024) :
    (f64bits v).toNat = (expOf v + 1023).toNat * 2 ^ 52 + (significand v - 2 ^ 52) := by
  have hpos : 0 < v := (pow2_pos _).trans_le hlo
  obtain ⟨helo, hehi⟩ := expOf_normal hlo hhi
  obtain ⟨hmlo, hmhi⟩ := significand_bounds hpos
  have hnonneg : 0 ≤ v / pow2 (expOf v - 52) := div_nonneg hpos.le (pow2_pos _).le
  have hfloor : (v / pow2 (expOf v - 52)).floor = (significand v : ℤ) := (Int.natCast_floor_eq_floor hnonneg).symm
  have hexp : expOf v + 1023 = ((expOf v + 1023).toNat : ℤ) := by omega
  have hfrac : (significand v : ℤ) - 2 ^ 52 = ((significand v - 2 ^ 52 : Nat) : ℤ) := by omega
  rw [f64bits, if_neg (not_le.2 hpos)]
  simp only [hfloor]
  rw [hfrac, hexp]
  exact toNat_binary64_fields (by omega) (by omega)

/-- Patterns are ordered as their values: by the exponent first, then by the significand. -/
theorem toNat_f64bits_mono {v w : ℚ} (hv : v = 0 ∨ pow2 (-1022) ≤ v) (hvw : v ≤ w) (hw : w < pow2 1024) :
    (f64bits v).toNat ≤ (f64bits w).toNat := by
  rcases hv with rfl | hv
  · simp
  · have hpos : 0 < v := (pow2_pos _).trans_le hv
    have hnormal := expOf_normal hv (hvw.trans_lt hw)
    have hbounds := significand_bounds hpos
    rw [toNat_f64bits hv (hvw.trans_lt hw), toNat_f64bits (hv.trans hvw) hw]
    rcases (expOf_mono hpos hvw).lt_or_eq with hlt | heq
    · omega
    · have := significand_mono hvw heq
      omega

/-- A normalised word is 0 or far above the smallest normal value. -/
theorem normDiv_unitDiv_normal (w : Word) (a : GenUnit) :
    normDiv w (unitDiv a) = 0 ∨ pow2 (-1022) ≤ normDiv w (unitDiv a) := by
  rcases Nat.eq_zero_or_pos w.toNat with h0 | hpos
  · exact .inl (by simp [normDiv, h0])
  have hw : (1 : ℚ) ≤ w.toNat := by exact_mod_cast hpos
  have hD : 0 < (unitDiv a : ℚ) ∧ (unitDiv a : ℚ) ≤ 2 ^ 32 := by
    cases a <;> norm_num [unitDiv, Config.xsDiv, Config.u32Div]
  have hq : (1 : ℚ) / 2 ^ 32 ≤ w.toNat / unitDiv a := div_le_div₀ (by linarith) hw hD.1 hD.2
  have hround := (abs_le.1 (rne64_rel (q := (w.toNat : ℚ) / unitDiv a) (by positivity))).1
  have hsmall : pow2 (-1022) ≤ 1 / 2 ^ 33 :=
    (pow2_le_pow2 (by norm_num : (-1022 : ℤ) ≤ -33)).trans_eq (by norm_num [pow2_eq_zpow])
  right
  rw [normDiv]
  linarith

/-- The pattern of a normalised word is at most that of r units of 2^-52, for r from 2^52 to below 2^53. -/
theorem toNat_f64bits_normDiv_le {w : Word} {a : GenUnit} {r : Nat} (hlo : 2 ^ 52 ≤ r) (hhi : r < 2 ^ 53)
    (h : normDiv w (unitDiv a) ≤ r * pow2 (0 - 52)) :
    (f64bits (normDiv w (unitDiv a))).toNat ≤ 1023 * 2 ^ 52 + (r - 2 ^ 52) := by
  have hhi' : (r : ℚ) < 2 ^ 53 := by exact_mod_cast hhi
  have hbelow : (r : ℚ) * pow2 (0 - 52) < pow2 1024 := calc
    (r : ℚ) * pow2 (0 - 52) < 2 ^ 53 * pow2 (0 - 52) := mul_lt_mul_of_pos_right hhi' (pow2_pos _)
    _ = pow2 (0 + 1) := (pow2_succ_eq_ulps 0).symm
    _ ≤ pow2 1024 := pow2_le_pow2 (by norm_num)
  have hmono := toNat_f64bits_mono (normDiv_unitDiv_normal w a) h hbelow
  rwa [toNat_f64bits_normal (by norm_num) (by norm_num) hlo hhi] at hmono

/-- Settles O40: the ranges of the values, and the patterns at their upper ends. -/
theorem floatRanges : Obligations.FloatRanges := by
  constructor
  · intro w
    obtain ⟨h0, hmax, hone⟩ := xsQuotient_range w
    have heq : normDiv w (unitDiv .xs) = (w.toNat : ℚ) / 2 ^ 31 := normDiv_xsDiv w
    have hpat := toNat_f64bits_normDiv_le (w := w) (a := .xs) (r := 2 ^ 53 - 2 ^ 21) (by norm_num) (by norm_num)
      (by rw [heq]; exact hmax.trans_eq (by norm_num [pow2_eq_zpow]))
    rw [heq] at hpat ⊢
    exact ⟨h0, hmax, hone, hpat⟩
  · intro a w ha
    have hpat := toNat_f64bits_normDiv_le (w := w) (a := a) (r := 2 ^ 52) (by norm_num) (by norm_num)
      (by rw [unitDiv_of_ne_xs ha]; exact (normDiv_u32Div_le_one w).trans_eq (by norm_num [pow2_eq_zpow]))
    rw [unitDiv_of_ne_xs ha] at hpat ⊢
    exact ⟨normDiv_nonneg w _, normDiv_u32Div_le_one w, normDiv_u32Div_eq_one_iff w, hpat⟩

end Sys2Proof.Machine
end

section
/-!
PROOFS. The statements of spec/40_xorshift32.md: the step of the state word (R101), SEED.XS, NEXTU.XS and NEXTF.XS.
-/
namespace Sys2Proof.Machine

/-! ## xs_step as a bijection -/

/-- If below each set bit, by a measure, there is another set bit, then no bit is set. -/
theorem eq_zero_of_getLsbD_descends {n : Nat} {d : BitVec n} (μ : Nat → Nat)
    (h : ∀ i, d.getLsbD i = true → ∃ j, μ j < μ i ∧ d.getLsbD j = true) : d = 0#n := by
  have hclear : ∀ m i, μ i = m → d.getLsbD i = false := by
    intro m
    induction m using Nat.strong_induction_on with
    | _ m ih =>
      rintro i rfl
      by_contra hi
      obtain ⟨j, hj, hset⟩ := h i (Bool.not_eq_false _ ▸ hi)
      rw [ih _ hj j rfl] at hset
      cases hset
  exact BitVec.eq_of_getLsbD_eq fun i _ => by rw [hclear _ i rfl, BitVec.getLsbD_zero]

/-- XOR with a linear function that moves every bit strictly one way, by a measure, loses nothing. -/
theorem xor_injective_of_descends {n : Nat} {f : BitVec n → BitVec n} (μ : Nat → Nat)
    (hxor : ∀ x y, f (x ^^^ y) = f x ^^^ f y)
    (h : ∀ d i, (f d).getLsbD i = true → ∃ j, μ j < μ i ∧ d.getLsbD j = true) :
    Function.Injective fun x => x ^^^ f x := by
  intro x y hxy
  have hfix : x ^^^ y = f (x ^^^ y) := BitVec.xor_eq_zero_iff.1 <| calc
    x ^^^ y ^^^ f (x ^^^ y) = (x ^^^ f x) ^^^ (y ^^^ f y) := by rw [hxor]; ac_rfl
    _ = 0#n := BitVec.xor_eq_zero_iff.2 hxy
  exact BitVec.xor_eq_zero_iff.1 (eq_zero_of_getLsbD_descends μ fun i hi => h _ i (hfix ▸ hi))

theorem xor_shiftLeft_injective {n k : Nat} (hk : 0 < k) :
    Function.Injective fun x : BitVec n => x ^^^ (x <<< k) := by
  refine xor_injective_of_descends id (fun x y => BitVec.shiftLeft_xor_distrib x y k) fun d i hi => ?_
  rw [BitVec.getLsbD_shiftLeft] at hi
  simp only [Bool.and_eq_true, Bool.not_eq_true', decide_eq_true_iff, decide_eq_false_iff_not] at hi
  obtain ⟨⟨-, hki⟩, hset⟩ := hi
  exact ⟨i - k, by simp only [id]; omega, hset⟩

theorem xor_shiftRight_injective {n k : Nat} (hk : 0 < k) :
    Function.Injective fun x : BitVec n => x ^^^ (x >>> k) := by
  refine xor_injective_of_descends (n - ·) (fun x y => BitVec.ushiftRight_xor_distrib x y k) fun d i hi => ?_
  rw [BitVec.getLsbD_ushiftRight] at hi
  have hlt := BitVec.lt_of_getLsbD hi
  exact ⟨k + i, by omega, hi⟩

theorem xsStep_injective : Function.Injective xsStep :=
  (xor_shiftLeft_injective (n := 32) (k := 5) (by norm_num)).comp
    ((xor_shiftRight_injective (n := 32) (k := 17) (by norm_num)).comp
      (xor_shiftLeft_injective (n := 32) (k := 13) (by norm_num)))

/-- Settles O24: each of the three lines is injective, and an injective function on words is a bijection. -/
theorem xsStepIsABijectionThatKeepsZero : Obligations.XsStepIsABijectionThatKeepsZero :=
  ⟨fun _ => rfl, fun _ => rfl, Finite.injective_iff_bijective.1 xsStep_injective, by decide⟩

/-! ## The commands of the unit XS -/

/-- The truncated seed as the number it is (R72). -/
theorem State.seed32_eq_ofNat (s : State) : s.seed32 = BitVec.ofNat 32 s.port.wdata.toNat := by
  apply BitVec.eq_of_toNat_eq
  simp [State.seed32]

/-- Settles O21: the seed is zero exactly when its number is. -/
theorem seedXsConstructsTheUnit : Obligations.SeedXsConstructsTheUnit := by
  intro s
  have hseed : s.xsSeed =
      if s.port.wdata.toNat % 2 ^ 32 = 0 then s.port.dfltSeed else BitVec.ofNat 32 s.port.wdata.toNat :=
    if_congr s.seed32_eq_zero_iff rfl s.seed32_eq_ofNat
  rw [← hseed]
  exact exec_seedOf .xs s

/-- Settles O22: the draw of XS writes and answers the word after the three shifts. -/
theorem nextuXsReturnsTheNewWord : Obligations.NextuXsReturnsTheNewWord :=
  ⟨fun _ hv => exec_nextuOf_of_valid (a := .xs) hv, fun _ hv => exec_nextuOf_of_not_valid (a := .xs) hv⟩

/-- Settles O23: the same draw, and its normalisation is the exact quotient. -/
theorem nextfXsDividesExactly : Obligations.NextfXsDividesExactly := by
  refine ⟨fun s hv => ?_, xsQuotient_range, fun s hv => exec_nextfOf_of_not_valid (a := .xs) hv⟩
  have hexec := exec_nextfOf_of_valid (a := .xs) (s := s) hv
  rw [show unitDiv .xs = 2147483648 from rfl, normDiv_xsDiv] at hexec
  exact hexec

end Sys2Proof.Machine
end

section
/-!
PROOFS. The statements of spec/41_mt19937.md: the twist (R112) and the tempering (R113) on words, SEED.MT (R111) and
the draws of the unit MT (R114 to R118); and NEXTF of MT, PCG and WELL (R116, R134, R144).
-/
namespace Sys2Proof.Machine

/-! ## The twist, in place and ascending (R112) -/

/-- Iteration n writes word n only. -/
theorem getElem_mtTwistUpTo_succ_ne (v : MtArray) {n : Nat} {j : Fin 624} (h : n ≠ j.val) :
    (mtTwistUpTo v (n + 1))[j] = (mtTwistUpTo v n)[j] := by
  rw [mtTwistUpTo]
  split
  · exact Vector.getElem_set_ne _ _ h
  · rfl

theorem getElem_mtTwistUpTo_succ_self (v : MtArray) (j : Fin 624) :
    (mtTwistUpTo v (j.val + 1))[j] = mtTwistWord (mtTwistUpTo v j.val) j := by
  rw [mtTwistUpTo]
  simp [j.isLt]

/-- Before its iteration a word is old. -/
theorem getElem_mtTwistUpTo_of_le (v : MtArray) {n : Nat} {j : Fin 624} (h : n ≤ j.val) :
    (mtTwistUpTo v n)[j] = v[j] := by
  induction n with
  | zero => rfl
  | succ n ih => rw [getElem_mtTwistUpTo_succ_ne v (by omega), ih (by omega)]

/-- From its iteration on a word is what that iteration wrote. -/
theorem getElem_mtTwistUpTo_of_lt (v : MtArray) {n : Nat} {j : Fin 624} (h : j.val < n) :
    (mtTwistUpTo v n)[j] = mtTwistWord (mtTwistUpTo v j.val) j := by
  induction n, h using Nat.le_induction with
  | base => exact getElem_mtTwistUpTo_succ_self v j
  | succ n hn ih => rw [getElem_mtTwistUpTo_succ_ne v (by omega), ih]

theorem getElem_mtTwist (v : MtArray) (j : Fin 624) : (mtTwist v)[j] = mtTwistWord (mtTwistUpTo v j.val) j :=
  getElem_mtTwistUpTo_of_lt v j.isLt

/-- What iteration n reads: the new words below n, the old words from n on. -/
theorem getElem_mtTwistUpTo (v : MtArray) (n : Nat) (j : Fin 624) :
    (mtTwistUpTo v n)[j] = if j.val < n then (mtTwist v)[j] else v[j] := by
  split
  · next h => rw [getElem_mtTwistUpTo_of_lt v h, getElem_mtTwist]
  · next h => exact getElem_mtTwistUpTo_of_le v (not_lt.1 h)

/-- Settles O28: iteration i reads the words i, i + 1 and i + 397, wrapped, on their sides of i. -/
theorem mtTwistIsInPlaceAndAscending : Obligations.MtTwistIsInPlaceAndAscending := by
  intro v i
  have hnext : (mtTwistUpTo v i.val)[i + 1] = if i.val = 623 then (mtTwist v)[i + 1] else v[i + 1] := by
    have hval : (i + 1).val = (i.val + 1) % 624 := Fin.val_add i 1
    rw [getElem_mtTwistUpTo]
    exact if_congr (by omega) rfl rfl
  have hfar : (mtTwistUpTo v i.val)[i + 397] = if i.val < 227 then v[i + 397] else (mtTwist v)[i + 397] := by
    have hval : (i + 397).val = (i.val + 397) % 624 := Fin.val_add i 397
    rw [getElem_mtTwistUpTo, ← ite_not]
    exact if_congr (by omega) rfl rfl
  have hold : (mtTwistUpTo v i.val)[i] = v[i] := getElem_mtTwistUpTo_of_le v le_rfl
  simp only [getElem_mtTwist v i, mtTwistWord, hnext, hfar, hold, Config.mtMatrix]

/-! ## The tempering is a bijection (R113) -/

theorem xor_shiftLeft_and_injective {n k : Nat} (hk : 0 < k) (m : BitVec n) :
    Function.Injective fun x : BitVec n => x ^^^ ((x <<< k) &&& m) := by
  refine xor_injective_of_descends id (fun x y => ?_) fun d i hi => ?_
  · rw [BitVec.shiftLeft_xor_distrib]
    ext i
    simp [Bool.and_xor_distrib_right]
  · rw [BitVec.getLsbD_and, BitVec.getLsbD_shiftLeft] at hi
    simp only [Bool.and_eq_true, Bool.not_eq_true', decide_eq_true_iff, decide_eq_false_iff_not] at hi
    obtain ⟨⟨⟨-, hki⟩, hset⟩, -⟩ := hi
    exact ⟨i - k, by simp only [id]; omega, hset⟩

theorem mtTemper_injective : Function.Injective mtTemper :=
  (xor_shiftRight_injective (n := 32) (k := 18) (by norm_num)).comp
    ((xor_shiftLeft_and_injective (k := 15) (by norm_num) Config.mtTmaskC).comp
      ((xor_shiftLeft_and_injective (k := 7) (by norm_num) Config.mtTmaskB).comp
        (xor_shiftRight_injective (n := 32) (k := 11) (by norm_num))))

/-- Settles O29: each of the four lines is injective, and an injective function on words is a bijection. -/
theorem mtTemperIsABijection : Obligations.MtTemperIsABijection :=
  ⟨fun _ => rfl, Finite.injective_iff_bijective.1 mtTemper_injective, by decide⟩

/-! ## SEED.MT (R110, R111) -/

theorem getElem_lcgExpand (w : Word) {n i : Nat} (h : i < n) : (lcgExpand w n)[i] = lcgWord w i :=
  Vector.getElem_ofFn h

theorem State.construct_setMt (s : State) (v : MtArray) (k : Fin 625) : (s.setMt v k).construct .mt =
    { s with mt := v, mtIndex := k, valid := { s.valid with mt := true } } := rfl

theorem exec_seedMt (s : State) :
    ∃ t, exec .seedMt s = .next t ∧ t.mt = lcgExpand s.seed32 624 ∧ t.mtIndex.val = 0 :=
  ⟨_, exec_seedOf .mt s, rfl, rfl⟩

/-- Settles O26: the recursion of `lcgWord`, read off the array. -/
theorem seedMtExpandsTheSeed : Obligations.SeedMtExpandsTheSeed := by
  intro s
  refine ⟨lcgExpand s.seed32 624, ?_, ?_, fun i h => ?_⟩
  · rw [← State.construct_setMt]
    exact exec_seedOf .mt s
  · rw [getElem_lcgExpand, lcgWord, s.seed32_eq_ofNat]
  · rw [getElem_lcgExpand, getElem_lcgExpand, lcgWord, Config.lcgMult]

/-! ## The draws of the unit MT (R114) -/

/-- Below the end of the array a draw tempers the word at the cursor and advances. -/
theorem State.draw_mt_of_lt {s : State} (h : s.mtIndex.val < 624) :
    s.draw .mt = (mtTemper s.mt[s.mtIndex.val], s.setMt s.mt ⟨s.mtIndex.val + 1, by omega⟩) := by
  simp only [State.draw, State.drawMt, mtDraw, dif_pos h]

/-- At the end of the array a draw twists first. -/
theorem State.draw_mt_of_eq {s : State} (h : s.mtIndex.val = 624) :
    s.draw .mt = (mtTemper (mtTwist s.mt)[0], s.setMt (mtTwist s.mt) 1) := by
  simp only [State.draw, State.drawMt, mtDraw, dif_neg (show ¬ s.mtIndex.val < 624 by omega)]

/-- Settles O27: the draw on either side of the cursor 624. -/
theorem nextuMtDrawsAtTheCursor : Obligations.NextuMtDrawsAtTheCursor := by
  refine ⟨fun s h hv => ?_, fun s h hv => ?_, fun s hv => exec_nextuOf_of_not_valid (a := .mt) hv⟩
  · have hexec := exec_nextuOf_of_valid (a := .mt) hv
    rw [State.draw_mt_of_lt h] at hexec
    exact ⟨_, hexec, rfl, rfl⟩
  · have hexec := exec_nextuOf_of_valid (a := .mt) hv
    rw [State.draw_mt_of_eq h] at hexec
    exact hexec

/-! ## The draws after SEED.MT (R117, R118) -/

/-- Until the cursor has reached 624 the draws only advance it. -/
theorem State.drawN_mt {s : State} {k : Nat} (h : s.mtIndex.val + k ≤ 624) :
    (State.drawN .mt k s).mtIndex.val = s.mtIndex.val + k ∧ (State.drawN .mt k s).mt = s.mt := by
  induction k with
  | zero => exact ⟨rfl, rfl⟩
  | succ k ih =>
    obtain ⟨hcursor, harray⟩ := ih (by omega)
    rw [State.drawN_succ, State.draw_mt_of_lt (by omega)]
    exact ⟨congrArg (· + 1) hcursor, harray⟩

/-- Their Samples are the words from the cursor on, tempered. -/
theorem State.sample_mt {s : State} {k : Nat} (h : s.mtIndex.val + k < 624) :
    s.sample .mt k = mtTemper s.mt[s.mtIndex.val + k] := by
  obtain ⟨hcursor, harray⟩ := State.drawN_mt h.le
  rw [State.sample, State.draw_mt_of_lt (by omega)]
  simp only [hcursor, harray]

/-- Settles O30: the seeded cursor is 0, so word k is read by draw k. -/
theorem mtFirst624DrawsAreTheExpansion : Obligations.MtFirst624DrawsAreTheExpansion := by
  intro s
  obtain ⟨t, hexec, hmt, hcursor⟩ := exec_seedMt s
  refine ⟨t, hexec, fun k h => ?_⟩
  have hword : t.mt[k] = lcgWord (BitVec.ofNat 32 s.port.wdata.toNat) k := by
    rw [← s.seed32_eq_ofNat, ← getElem_lcgExpand _ h, hmt]
  have hsample : t.sample .mt k = mtTemper t.mt[k] := by
    simpa only [hcursor, Nat.zero_add] using State.sample_mt (s := t) (k := k) (by omega)
  obtain ⟨hk, harray⟩ := State.drawN_mt (s := t) (k := k) (by omega)
  exact ⟨hword, by rw [hsample, hword], by rw [hk, hcursor, Nat.zero_add], harray⟩

/-- Settles O31: 624 draws bring the seeded cursor to 624, where the next draw twists. -/
theorem mtDraw625Twists : Obligations.MtDraw625Twists := by
  intro s
  obtain ⟨t, hexec, -, hcursor⟩ := exec_seedMt s
  obtain ⟨hend, harray⟩ := State.drawN_mt (s := t) (k := 624) (by omega)
  rw [hcursor, Nat.zero_add] at hend
  refine ⟨t, hexec, hend, harray, ?_⟩
  rw [State.sample, State.drawN_succ _ _ 624, State.draw_mt_of_eq hend, harray]
  exact ⟨rfl, rfl, rfl⟩

/-! ## NEXTF of MT, PCG and WELL (R116, R134, R144) -/

theorem normDiv_u32Div_eq_rne64 (w : Word) : normDiv w 4294967295 = rne64 ((w.toNat : ℚ) / 4294967295) := by
  rw [normDiv, Nat.cast_ofNat]

/-- Settles O37: both commands make the one draw of the unit, and the float is its normalised Sample. -/
theorem nextfDividesTheSampleOfNextu : Obligations.NextfDividesTheSampleOfNextu := by
  intro a ha
  simp only [← normDiv_u32Div_eq_rne64]
  refine ⟨fun s hv => ⟨exec_nextuOf_of_valid hv, ?_⟩, fun w => ?_, fun s hv => exec_nextfOf_of_not_valid hv⟩
  · rw [exec_nextfOf_of_valid hv, unitDiv_of_ne_xs ha]
  · exact ⟨normDiv_nonneg w _, normDiv_u32Div_le_one w, normDiv_u32Div_eq_one_iff w⟩

end Sys2Proof.Machine
end

section
/-!
PROOFS. The statements of spec/42_pcg32.md: SEED.PCG (R131), the 64-bit congruence and the rotated output (R132), and
NEXTU.PCG (R133).
-/
namespace Sys2Proof.Machine

/-! ## SEED.PCG (R131) -/

/-- Settles O32: the seeding stores the operand as it is. -/
theorem seedPcgTakesAll64Bits : Obligations.SeedPcgTakesAll64Bits :=
  exec_seedOf .pcg

/-! ## The draw in the arithmetic of numbers (R132) -/

/-- The wrapping update is the congruence modulo 2^64. -/
theorem pcgNext_eq_ofNat (old : DWord) :
    pcgNext old = BitVec.ofNat 64 (2315583 + 6364136223846793005 * old.toNat) := by
  rw [BitVec.ofNat_add, BitVec.ofNat_mul, BitVec.ofNat_toNat, BitVec.setWidth_eq, pcgNext, Config.pcgInc,
    Config.pcgMult]

/-- `ror32` on its range of counts is the library's rotation; at the count 0 its two halves are both the word. -/
theorem ror32_eq_rotateRight (v : Word) {r : Nat} (h : r < 32) : ror32 v r = v.rotateRight r := by
  rw [ror32, BitVec.rotateRight_def, Nat.mod_eq_of_lt h]
  rcases Nat.eq_zero_or_pos r with rfl | hr
  · simp
  · rw [Nat.mod_eq_of_lt (by omega : 32 - r < 32)]

/-- The rotation count is the top 5 bits of the state, the quotient by 2^59. -/
theorem pcgOutput_eq_rotateRight (old : DWord) :
    pcgOutput old = ((((old >>> 18) ^^^ old) >>> 27).setWidth 32 : Word).rotateRight (old.toNat / 2 ^ 59) := by
  have hcount : (old >>> 59).toNat = old.toNat / 2 ^ 59 := by
    rw [BitVec.toNat_ushiftRight, Nat.shiftRight_eq_div_pow]
  rw [pcgOutput, hcount, ror32_eq_rotateRight _ (by omega)]

/-! ## NEXTU.PCG (R133) -/

/-- Settles O33: the one draw of PCG answers the output of the old state and stores the next one. -/
theorem nextuPcgRotatesTheOldState : Obligations.NextuPcgRotatesTheOldState := by
  refine ⟨fun s hv => ?_, fun s hv => exec_nextuOf_of_not_valid (a := .pcg) hv⟩
  have hexec := exec_nextuOf_of_valid (a := .pcg) hv
  rw [State.draw, State.drawPcg, pcgNext_eq_ofNat, pcgOutput_eq_rotateRight] at hexec
  exact hexec

end Sys2Proof.Machine
end

section
/-!
PROOFS. The statements of spec/43_well512a.md: SEED.WELL (R141), the draw and NEXTU.WELL (R142, R143), and the first 31
draws after SEED.WELL in closed form (R145).
-/
namespace Sys2Proof.Machine

/-! ## SEED.WELL (R110, R141) -/

theorem State.construct_setWell (s : State) (v : WellArray) (k : Fin 16) : (s.setWell v k).construct .well =
    { s with ws := v, wellIndex := k, valid := { s.valid with well := true } } := rfl

theorem exec_seedWell (s : State) :
    ∃ t, exec .seedWell s = .next t ∧ t.ws = lcgExpand s.seed32 16 ∧ t.wellIndex.val = 0 :=
  ⟨_, exec_seedOf .well s, rfl, rfl⟩

/-- Settles O34: the recursion of `lcgWord`, read off the array. -/
theorem seedWellExpandsTheSeed : Obligations.SeedWellExpandsTheSeed := by
  intro s
  refine ⟨lcgExpand s.seed32 16, ?_, ?_, fun i h => ?_⟩
  · rw [← State.construct_setWell]
    exact exec_seedOf .well s
  · rw [getElem_lcgExpand, lcgWord, s.seed32_eq_ofNat]
  · rw [getElem_lcgExpand, getElem_lcgExpand, lcgWord, Config.lcgMult]

/-! ## The draw of the unit WELL (R142) -/

/-- The written word without a case distinction: for an even word at the cursor `mx` is 0. -/
theorem wellNewWord_eq (v : WellArray) (k : Fin 16) :
    wellNewWord v k = v[k + 15] ^^^ (v[k] >>> 1) ^^^ wellMx v[k] := by
  rw [wellNewWord, wellMx]
  split
  · rfl
  · rw [BitVec.xor_zero]

/-- The returned word stands at the next cursor, where this draw wrote nothing (90_conflicts.md C2). -/
theorem State.draw_well (s : State) :
    s.draw .well = (s.ws[s.wellIndex + 1],
      s.setWell (s.ws.set s.wellIndex.val (wellNewWord s.ws s.wellIndex) s.wellIndex.isLt) (s.wellIndex + 1)) := by
  have hne : s.wellIndex.val ≠ (s.wellIndex + 1).val := by
    rw [Fin.val_add]
    omega
  exact Prod.ext (Vector.getElem_set_ne _ _ hne) rfl

/-- Settles O35: the one draw of WELL. -/
theorem nextuWellReturnsTheWordAtTheNewIndex : Obligations.NextuWellReturnsTheWordAtTheNewIndex := by
  refine ⟨fun s hv => ?_, fun s hv => exec_nextuOf_of_not_valid (a := .well) hv⟩
  have hexec := exec_nextuOf_of_valid (a := .well) hv
  rw [State.draw_well, wellNewWord_eq] at hexec
  exact hexec

/-! ## One pass over the array (R145)

Sixteen draws from the cursor 0 write every slot once and bring the cursor back to 0. -/

/-- Draw n + 1 of the pass writes `N[n]`, from the word before the cursor, which it finds rewritten for n > 0. -/
theorem wellNewWord_eq_rewritten {v : WellArray} {E : Nat → Word} {k : Fin 16}
    (hv : ∀ j : Fin 16, v[j] = if j.val < k.val then wellRewritten E j.val else E j.val) :
    wellNewWord v k = wellRewritten E k.val := by
  have hold : v[k] = E k.val := by rw [hv, if_neg (lt_irrefl _)]
  have hbefore : (k + 15).val = (k.val + 15) % 16 := Fin.val_add k 15
  rw [wellNewWord_eq, hold, hv, hbefore]
  obtain ⟨n, hn⟩ := k
  cases n with
  | zero => rfl
  | succ n =>
    have hmod : (n + 1 + 15) % 16 = n := by omega
    simp only [hmod, if_pos (Nat.lt_succ_self n), wellRewritten]

section
variable {s : State} {E : Nat → Word} (hcursor : s.wellIndex.val = 0) (harray : ∀ j : Fin 16, s.ws[j] = E j.val)
include hcursor harray

/-- After n draws of the pass the words below n are rewritten, the others old. -/
theorem State.drawN_well {n : Nat} (h : n ≤ 16) :
    (State.drawN .well n s).wellIndex.val = n % 16 ∧
      ∀ j : Fin 16, (State.drawN .well n s).ws[j] = if j.val < n then wellRewritten E j.val else E j.val := by
  induction n with
  | zero => exact ⟨hcursor, harray⟩
  | succ n ih =>
    obtain ⟨hk, hws⟩ := ih (by omega)
    rw [Nat.mod_eq_of_lt (by omega)] at hk
    rw [State.drawN_succ, State.draw_well]
    generalize State.drawN .well n s = u at hk hws
    subst hk
    refine ⟨Fin.val_add _ _, fun j => ?_⟩
    rw [State.setWell_ws, wellNewWord_eq_rewritten hws, Fin.getElem_fin, Vector.getElem_set]
    split
    · next hj => rw [if_pos (by omega), hj]
    · next hj =>
      rw [← Fin.getElem_fin, hws]
      exact if_congr (by omega) rfl rfl

/-- Draw n + 1 of the pass returns the word at slot n + 1, wrapped, as the draws before it left it. -/
theorem State.sample_well {n : Nat} (h : n < 16) :
    s.sample .well n = if (n + 1) % 16 < n then wellRewritten E ((n + 1) % 16) else E ((n + 1) % 16) := by
  obtain ⟨hk, hws⟩ := State.drawN_well hcursor harray h.le
  rw [Nat.mod_eq_of_lt h] at hk
  have hnext : ((State.drawN .well n s).wellIndex + 1).val = (n + 1) % 16 := by
    rw [Fin.val_add, hk, Fin.val_one]
  rw [State.sample, State.draw_well, hws, hnext]

/-- The first 15 draws of the pass return old words. -/
theorem State.sample_well_of_lt {n : Nat} (h : n < 15) : s.sample .well n = E (n + 1) := by
  rw [State.sample_well hcursor harray (by omega), Nat.mod_eq_of_lt (by omega), if_neg (by omega)]

/-- Its last draw returns the word that its first one wrote. -/
theorem State.sample_well_15 : s.sample .well 15 = wellRewritten E 0 :=
  State.sample_well hcursor harray (by omega)

/-- The pass ends where it began, with every word rewritten. -/
theorem State.drawN_well_16 :
    (State.drawN .well 16 s).wellIndex.val = 0 ∧
      ∀ j : Fin 16, (State.drawN .well 16 s).ws[j] = wellRewritten E j.val := by
  obtain ⟨hk, hws⟩ := State.drawN_well hcursor harray le_rfl
  exact ⟨hk, fun j => by rw [hws, if_pos j.isLt]⟩

end

/-! ## The first 31 draws after SEED.WELL (R145) -/

/-- Word m + n of a stream is word n after m draws. -/
theorem State.sample_add (s : State) (a : GenUnit) (m n : Nat) :
    s.sample a (m + n) = (State.drawN a m s).sample a n := by
  induction m generalizing s with
  | zero => rw [Nat.zero_add, State.drawN]
  | succ m ih => rw [Nat.succ_add, State.sample_succ, ih, State.drawN]

theorem wellMx_of_even {n : Nat} (h : n % 2 = 0) : wellMx (BitVec.ofNat 32 n) = 0#32 := by
  have hbit : (BitVec.ofNat 32 n).getLsbD 0 = false := by
    rw [BitVec.getLsbD_ofNat, Nat.testBit_zero, h]
    rfl
  rw [wellMx, hbit, if_neg Bool.false_ne_true]

/-- Settles O36: draws 1 to 16 are one pass over the expansion, draws 17 to 31 are a second one over its result. -/
theorem wellFirst31DrawsInClosedForm : Obligations.WellFirst31DrawsInClosedForm := by
  intro s
  obtain ⟨t, hexec, hws, hcursor⟩ := exec_seedWell s
  have harray : ∀ j : Fin 16, t.ws[j] = lcgWord (BitVec.ofNat 32 s.port.wdata.toNat) j.val := fun j => by
    rw [hws, Fin.getElem_fin, getElem_lcgExpand, s.seed32_eq_ofNat]
  obtain ⟨hcursor16, harray16⟩ := State.drawN_well_16 hcursor harray
  have hdraw16 := State.sample_well_15 hcursor harray
  refine ⟨t, hexec, fun d hlo hhi => ?_, hdraw16, fun d hlo hhi => ?_, fun heven => ?_⟩
  · obtain ⟨n, rfl⟩ := Nat.exists_eq_add_of_le' hlo
    exact State.sample_well_of_lt hcursor harray (by omega)
  · obtain ⟨n, rfl⟩ := Nat.exists_eq_add_of_le' hlo
    have hword := State.sample_well_of_lt hcursor16 harray16 (n := n) (by omega)
    rw [← State.sample_add, Nat.add_comm] at hword
    exact hword
  · rw [hdraw16, wellRewritten, lcgWord, wellMx_of_even heven, BitVec.xor_zero]

end Sys2Proof.Machine
end

section
/-!
PROOFS. The swap index of spec/44_shuffle.md section 2 in integers (R154, R155).
-/
namespace Sys2Proof.Machine

theorem shufIndex_eq_floor (f : ℚ) (n : Nat) : shufIndex f n = ⌊rne64 (f * n)⌋₊ :=
  Int.floor_toNat (rne64 (f * n))

/-! ## XS: the product is exact (R155 (a)) -/

/-- A number of at most 53 bits divided by a power of two is a binary64 value. -/
theorem rne64_natCast_div_two_pow {m : Nat} (hm : m < 2 ^ 53) (k : Nat) :
    rne64 ((m : ℚ) / 2 ^ k) = (m : ℚ) / 2 ^ k := by
  rcases Nat.eq_zero_or_pos m with rfl | hpos
  · simp
  · have hscaled : (m : ℚ) / 2 ^ k = ((m : ℤ) : ℚ) * pow2 (-k) := by
      rw [pow2_eq_zpow, zpow_neg, zpow_natCast, Int.cast_natCast, div_eq_mul_inv]
    rw [hscaled]
    exact rne64_exact (by exact_mod_cast hpos) (by exact_mod_cast hm)

/-- Settles O41: the float of XS is exact, and so is its product with n, of at most 48 bits. -/
theorem shufIndexOfXsInIntegers : Obligations.ShufIndexOfXsInIntegers := by
  intro x n hlo hhi
  have hx : x.toNat < 2 ^ 32 := x.isLt
  have hprod : x.toNat * n ≤ (2 ^ 32 - 1) * n := Nat.mul_le_mul_right n (by omega)
  have hfloat : normDiv x (unitDiv .xs) * n = ((x.toNat * n : Nat) : ℚ) / 2 ^ 31 := by
    rw [show normDiv x (unitDiv .xs) = (x.toNat : ℚ) / 2 ^ 31 from normDiv_xsDiv x, Nat.cast_mul, div_mul_eq_mul_div]
  constructor
  · rw [shufIndex_eq_floor, hfloat, rne64_natCast_div_two_pow (by omega)]
    exact_mod_cast Nat.floor_div_eq_div (K := ℚ) (x.toNat * n) (2 ^ 31)
  · omega

/-! ## MT, PCG and WELL: two roundings (R155 (b)) -/

/-- The two roundings of the swap index move the quotient by less than the distance 1/D between two quotients. -/
theorem rne64_normDiv_mul_dist (w : Word) {n : Nat} (hn : n ≤ 65535) :
    |rne64 (normDiv w 4294967295 * n) - ((w.toNat * n : Nat) : ℚ) / 4294967295| < 1 / 4294967295 := by
  have hn' : (n : ℚ) ≤ 65535 := by exact_mod_cast hn
  have hn0 : (0 : ℚ) ≤ n := n.cast_nonneg
  have hfloat : |normDiv w 4294967295 - (w.toNat : ℚ) / 4294967295| ≤ 1 / 2 ^ 53 := by
    have hw : (w.toNat : ℚ) / 4294967295 ≤ 1 := by
      rw [div_le_one (by norm_num)]
      exact_mod_cast Nat.le_of_lt_succ w.isLt
    rw [normDiv_u32Div_eq_rne64]
    exact (rne64_rel (by positivity)).trans (by gcongr)
  have hproduct : |rne64 (normDiv w 4294967295 * n) - normDiv w 4294967295 * n| ≤ 65535 / 2 ^ 53 := by
    refine (rne64_rel (mul_nonneg (normDiv_nonneg w _) hn0)).trans ?_
    gcongr
    exact (mul_le_of_le_one_left hn0 (normDiv_u32Div_le_one w)).trans hn'
  have hscaled : |normDiv w 4294967295 * n - ((w.toNat * n : Nat) : ℚ) / 4294967295| ≤ 65535 / 2 ^ 53 := by
    rw [Nat.cast_mul, mul_div_right_comm, ← sub_mul, abs_mul, abs_of_nonneg hn0]
    calc _ ≤ 1 / 2 ^ 53 * (65535 : ℚ) := by gcongr
      _ = 65535 / 2 ^ 53 := by ring
  calc _ ≤ (65535 : ℚ) / 2 ^ 53 + 65535 / 2 ^ 53 :=
        (abs_sub_le _ _ _).trans (add_le_add hproduct hscaled)
    _ < 1 / 4294967295 := by norm_num

/-- A value nearer than 1/D to m / D has the same integer part, unless m / D is an integer. -/
theorem floor_eq_div_of_near {v : ℚ} {m D : Nat} (hD : ¬ D ∣ m) (hD0 : 0 < D)
    (h : |v - (m : ℚ) / D| < 1 / D) : ⌊v⌋₊ = m / D := by
  have hD' : (0 : ℚ) < D := by exact_mod_cast hD0
  have hrem : 0 < m % D := Nat.pos_of_ne_zero fun h0 => hD (Nat.dvd_of_mod_eq_zero h0)
  have hmod : m % D < D := Nat.mod_lt m hD0
  have hdiv : D * (m / D) + m % D = m := Nat.div_add_mod m D
  have hlo : ((m / D : Nat) : ℚ) ≤ (m : ℚ) / D - 1 / D := by
    rw [← sub_div, le_div_iff₀ hD', le_sub_iff_add_le]
    exact_mod_cast show m / D * D + 1 ≤ m by rw [Nat.mul_comm]; omega
  have hhi : (m : ℚ) / D + 1 / D ≤ ((m / D : Nat) : ℚ) + 1 := by
    rw [← add_div, div_le_iff₀ hD']
    exact_mod_cast show m + 1 ≤ (m / D + 1) * D by rw [Nat.mul_comm, Nat.mul_add]; omega
  obtain ⟨hlow, hhigh⟩ := abs_lt.1 h
  have hv : ((m / D : Nat) : ℚ) ≤ v := by linarith
  exact (Nat.floor_eq_iff ((Nat.cast_nonneg _).trans hv)).2 ⟨hv, by linarith⟩

/-- A value not negative and nearer than 1 to an integer has that integer part or the one before. -/
theorem floor_eq_or_of_near {v : ℚ} {k : Nat} (hv : 0 ≤ v) (h : |v - k| < 1) : ⌊v⌋₊ = k ∨ ⌊v⌋₊ + 1 = k := by
  obtain ⟨hlow, hhigh⟩ := abs_lt.1 h
  have hle : ⌊v⌋₊ < k + 1 := (Nat.floor_lt hv).2 (by push_cast; linarith)
  have hge : k < ⌊v⌋₊ + 2 := by
    have := Nat.lt_floor_add_one v
    exact_mod_cast (show (k : ℚ) < ⌊v⌋₊ + 2 by linarith)
  omega

/-- Settles O42: both roundings together move the quotient by less than 1/D. -/
theorem shufIndexOfOthersInIntegers : Obligations.ShufIndexOfOthersInIntegers := by
  intro a w n ha hlo hhi
  rw [unitDiv_of_ne_xs ha, shufIndex_eq_floor]
  have hnear := rne64_normDiv_mul_dist w hhi
  have hoff : ¬ 4294967295 ∣ w.toNat * n → ⌊rne64 (normDiv w 4294967295 * n)⌋₊ = w.toNat * n / 4294967295 :=
    fun hD => floor_eq_div_of_near hD (by norm_num) (by exact_mod_cast hnear)
  have hon : 4294967295 ∣ w.toNat * n → ⌊rne64 (normDiv w 4294967295 * n)⌋₊ = w.toNat * n / 4294967295 ∨
      ⌊rne64 (normDiv w 4294967295 * n)⌋₊ + 1 = w.toNat * n / 4294967295 := by
    intro hD
    refine floor_eq_or_of_near (rne64_nonneg _) ?_
    rw [Nat.cast_div hD (by norm_num), Nat.cast_ofNat]
    exact hnear.trans (by norm_num)
  refine ⟨?_, hoff, hon⟩
  have hquot : w.toNat * n / 4294967295 ≤ n :=
    Nat.div_le_of_le_mul (Nat.mul_le_mul_right n (Nat.le_of_lt_succ w.isLt))
  by_cases hD : 4294967295 ∣ w.toNat * n
  · have := hon hD
    omega
  · exact (hoff hD).trans_le hquot

end Sys2Proof.Machine
end

section
/-!
PROOFS. The deck commands of spec/44_shuffle.md section 1: DKLEN (R150), DKWR (R151) and DKRD (R152).
-/
namespace Sys2Proof.Machine

/-! ## Each command inside its range and outside -/

theorem exec_dklen_of_le {n : BitVec 16} {s : State} (h : n.toNat ≤ Config.deckMax) :
    exec (.dklen n) s = .next ((s.setLen n).completed 0#64) :=
  congrArg Host.Outcome.next (if_neg (not_lt.2 h))

theorem exec_dklen_of_gt {n : BitVec 16} {s : State} (h : Config.deckMax < n.toNat) :
    exec (.dklen n) s = .next (s.faulted 2#4 (s.port.cmd.setWidth 64)) :=
  congrArg Host.Outcome.next ((if_pos h).trans (s.raiseCmd_eq_faulted .badLength))

theorem State.elementOperand_eq_ofNat (s : State) : s.elementOperand = BitVec.ofNat 32 s.port.wdata.toNat :=
  s.seed32_eq_ofNat

theorem exec_dkwr_of_lt {k : BitVec 16} {s : State} (h : k.toNat < s.len.toNat) :
    exec (.dkwr k) s = .next ((s.writeElement k.toNat (BitVec.ofNat 32 s.port.wdata.toNat)).completed 0#64) := by
  rw [← s.elementOperand_eq_ofNat]
  exact congrArg Host.Outcome.next (if_neg (not_le.2 h))

theorem exec_dkwr_of_ge {k : BitVec 16} {s : State} (h : s.len.toNat ≤ k.toNat) :
    exec (.dkwr k) s = .next (s.faulted 3#4 (s.port.cmd.setWidth 64)) :=
  congrArg Host.Outcome.next ((if_pos h).trans (s.raiseCmd_eq_faulted .badIndex))

theorem exec_dkrd_of_lt {k : BitVec 16} {s : State} (h : k.toNat < s.len.toNat) :
    exec (.dkrd k) s =
      .next ((s.readElement k.toNat).2.completed ((s.readElement k.toNat).1.setWidth 64)) :=
  congrArg Host.Outcome.next (if_neg (not_le.2 h))

theorem exec_dkrd_of_ge {k : BitVec 16} {s : State} (h : s.len.toNat ≤ k.toNat) :
    exec (.dkrd k) s = .next (s.faulted 3#4 (s.port.cmd.setWidth 64)) :=
  congrArg Host.Outcome.next ((if_pos h).trans (s.raiseCmd_eq_faulted .badIndex))

/-- A written element is answered as it is, and the read changes nothing. -/
theorem exec_dkrd_of_written {k : BitVec 16} {s : State} {v : Word} (h : k.toNat < s.len.toNat)
    (hv : s.view k.toNat = some v) : exec (.dkrd k) s = .next (s.completed (v.setWidth 64)) := by
  rw [exec_dkrd_of_lt h, State.readElement_of_view hv]

/-! ## The statements -/

/-- Settles O44: the two sides of DECK_MAX. -/
theorem dklenSetsTheLength : Obligations.DklenSetsTheLength := by
  refine ⟨fun n s => exec_dklen_of_le, fun n s => ?_⟩
  split
  · next h => exact exec_dklen_of_le h
  · next h => exact exec_dklen_of_gt (not_le.1 h)

/-- Settles O45: the written deck, read at k and elsewhere. -/
theorem dkwrWritesOneElement : Obligations.DkwrWritesOneElement :=
  ⟨fun k s h => ⟨_, exec_dkwr_of_lt h, Memory.lookup_write_same s.deck k.toNat _,
    fun _ hn => Memory.lookup_write_ne s.deck _ hn, rfl⟩, fun _ _ => exec_dkwr_of_ge⟩

/-- Settles O46: the read of an element not written takes one free value. -/
theorem dkrdReadsOneElement : Obligations.DkrdReadsOneElement := by
  refine ⟨fun k s v => exec_dkrd_of_written, fun k s h hnone => ?_, fun k s => exec_dkrd_of_ge⟩
  rcases s.readElement_cases k.toNat with ⟨v, hv, -⟩ | ⟨-, hread⟩
  · cases hv.symm.trans hnone
  · exact ⟨Config.freeElement s.freeCount, s.freeCount + 1, by rw [exec_dkrd_of_lt h, hread]; rfl⟩

/-- Settles O47: DKLEN leaves the deck as DKWR wrote it, and the old LEN makes k live again. -/
theorem deckReadsBackWhatWasWritten : Obligations.DeckReadsBackWhatWasWritten := fun k _ s hk hlen hm =>
  ⟨_, _, _, _, exec_dkwr_of_lt hk, exec_dklen_of_le hm, exec_dklen_of_le hlen,
    exec_dkrd_of_written hk (Memory.lookup_write_same s.deck k.toNat _), rfl, rfl⟩

end Sys2Proof.Machine
end

section
/-!
PROOFS. SHUF (spec/44_shuffle.md sections 2 to 4): the state of the loop after n rounds, and from it how SHUF ends.
-/
namespace Sys2Proof.Machine

/-! ## The reference swaps permute the live deck -/

theorem swapView_eq_comp (f : Nat → Option Word) (i j : Nat) : swapView f i j = f ∘ Equiv.swap i j := by
  funext k
  simp only [swapView, Function.comp_apply, Equiv.swap_apply_def]
  split_ifs <;> rfl

theorem map_swapView_perm (f : Nat → Option Word) {i j n : Nat} (hi : i < n) (hj : j < n) :
    ((List.range n).map (swapView f i j)).Perm ((List.range n).map f) := by
  have hmaps : ∀ {k}, k < n → Equiv.swap i j k < n := fun {k} hk => by
    rw [Equiv.swap_apply_def]
    split_ifs
    · exact hj
    · exact hi
    · exact hk
  have hrange : ((List.range n).map (Equiv.swap i j)).Perm (List.range n) := by
    refine (List.perm_ext_iff_of_nodup (List.nodup_range.map (Equiv.injective _)) List.nodup_range).2 fun k => ?_
    simp only [List.mem_map, List.mem_range]
    exact ⟨fun ⟨m, hm, hk⟩ => hk ▸ hmaps hm, fun hk => ⟨_, hmaps hk, Equiv.swap_apply_self i j k⟩⟩
  rw [swapView_eq_comp, ← List.map_map]
  exact hrange.map f

/-- No index is out of range at the positions above i. -/
abbrev State.InRangeAbove (s : State) (a : GenUnit) (i : Nat) : Prop :=
  ∀ p, i < p → p < s.len.toNat → s.swapIndex a p ≤ p

theorem State.InRangeAbove.mono {s : State} {a : GenUnit} {i m : Nat} (h : s.InRangeAbove a i) (him : i ≤ m) :
    s.InRangeAbove a m :=
  fun p hp => h p (him.trans_lt hp)

theorem State.shuffledView_perm {s : State} {a : GenUnit} {n : Nat}
    (hr : s.InRangeAbove a (s.len.toNat - 1 - n)) (hn : n ≤ s.len.toNat - 1) :
    ((List.range s.len.toNat).map (s.shuffledView a n)).Perm ((List.range s.len.toNat).map s.view) := by
  induction n with
  | zero => exact .refl _
  | succ n ih =>
    have hj := hr (s.len.toNat - 1 - n) (by omega) (by omega)
    exact (map_swapView_perm _ (by omega) (by omega)).trans (ih (hr.mono (by omega)) (by omega))

/-- The swaps of a written deck find every element written. -/
theorem State.isSome_shuffledView {s : State} {a : GenUnit} {n k : Nat}
    (hr : s.InRangeAbove a (s.len.toNat - 1 - n)) (hn : n ≤ s.len.toNat - 1) (hw : s.deckWritten)
    (hk : k < s.len.toNat) : (s.shuffledView a n k).isSome := by
  have hmem := (State.shuffledView_perm hr hn).subset
    (List.mem_map_of_mem (f := s.shuffledView a n) (List.mem_range.2 hk))
  obtain ⟨m, hm, heq⟩ := List.mem_map.1 hmem
  rw [← heq]
  exact hw m (List.mem_range.1 hm)

/-! ## One round of the loop -/

/-- After n rounds the loop stands at position LEN-1-n, and its draw is word n of the stream. -/
theorem State.shuffleFrom_round {s : State} {a : GenUnit} {n i : Nat} (hi : i + 1 = s.len.toNat - 1 - n)
    (d : Memory) (c : Nat) :
    State.shuffleFrom a (i + 1) ((State.drawN a n s).withDeck d c) =
      if i + 1 < s.swapIndex a (i + 1) then
        ((State.drawN a (n + 1) s).withDeck d c).raise .indexRange (indexRangeInfo (s.swapIndex a (i + 1)) (i + 1))
      else
        State.shuffleFrom a i
          (((State.drawN a (n + 1) s).withDeck d c).swapElements (i + 1) (s.swapIndex a (i + 1))) := by
  have hword : s.len.toNat - 1 - (i + 1) = n := by omega
  rw [State.shuffleFrom_succ, State.draw_with_deck, ← State.drawN_succ, State.swapIndex, hword, State.sample]

/-- What n rounds begun in s have left in the deck memory, and the count of free values. -/
structure State.DeckAfterRounds (s : State) (a : GenUnit) (n : Nat) (d : Memory) (c : Nat) : Prop where
  above : ∀ k, s.len.toNat ≤ k → Memory.lookup d k = s.view k
  written : s.deckWritten → c = s.freeCount ∧ ∀ k, Memory.lookup d k = s.shuffledView a n k

/-- A swap in range makes one round more of the reference shuffle. -/
theorem State.DeckAfterRounds.swap {s u : State} {a : GenUnit} {n i : Nat}
    (h : s.DeckAfterRounds a n u.deck u.freeCount) (hr : s.InRangeAbove a i) (hi : i + 1 = s.len.toNat - 1 - n) :
    ∃ d c, u.swapElements (i + 1) (s.swapIndex a (i + 1)) = u.withDeck d c ∧ s.DeckAfterRounds a (n + 1) d c := by
  have hj := hr (i + 1) (by omega) (by omega)
  obtain ⟨x, y, c, -, hswap⟩ := u.swapElements_frame (i + 1) (s.swapIndex a (i + 1))
  refine ⟨_, c, hswap, fun k hk => ?_, fun hw => ?_⟩
  · rw [Memory.lookup_write_ne _ _ (by omega), Memory.lookup_write_ne _ _ (by omega), h.above k hk]
  · obtain ⟨hcount, hview⟩ := h.written hw
    have hlive : ∀ k < s.len.toNat, ∃ v, u.view k = some v := fun k hk => by
      rw [State.view, hview, ← Option.isSome_iff_exists]
      exact State.isSome_shuffledView (hr.mono (by omega)) (by omega) hw hk
    obtain ⟨v, hv⟩ := hlive (i + 1) (by omega)
    obtain ⟨w, hx⟩ := hlive (s.swapIndex a (i + 1)) (by omega)
    have hfree := congrArg State.freeCount hswap
    rw [State.swapElements_of_written hv hx] at hfree
    have hdeck := State.view_swapElements hv hx
    rw [hswap] at hdeck
    refine ⟨hfree.symm.trans hcount, fun k => (congrFun hdeck k).trans ?_⟩
    rw [State.shuffledView, ← hi, show u.view = s.shuffledView a n from funext hview]

/-! ## The loop -/

/-- The first n rounds, when their indices are in range. -/
theorem State.shuffleFrom_rounds {s : State} {a : GenUnit} {n : Nat} (hn : n ≤ s.len.toNat - 1)
    (hr : s.InRangeAbove a (s.len.toNat - 1 - n)) :
    ∃ d c, s.DeckAfterRounds a n d c ∧ State.shuffleFrom a (s.len.toNat - 1) s =
      State.shuffleFrom a (s.len.toNat - 1 - n) ((State.drawN a n s).withDeck d c) := by
  induction n with
  | zero => exact ⟨s.deck, s.freeCount, ⟨fun _ _ => rfl, fun _ => ⟨rfl, fun _ => rfl⟩⟩, rfl⟩
  | succ n ih =>
    obtain ⟨d, c, hdeck, hloop⟩ := ih (by omega) (hr.mono (by omega))
    obtain ⟨i, hi⟩ : ∃ i, i + 1 = s.len.toNat - 1 - n := ⟨s.len.toNat - 1 - n - 1, by omega⟩
    rw [show s.len.toNat - 1 - (n + 1) = i by omega] at hr ⊢
    have hj := hr (i + 1) (by omega) (by omega)
    obtain ⟨d', c', hswap, hdeck'⟩ :=
      State.DeckAfterRounds.swap (u := (State.drawN a (n + 1) s).withDeck d c) hdeck hr hi
    refine ⟨d', c', hdeck', ?_⟩
    rw [hloop, ← hi, State.shuffleFrom_round hi, if_neg (not_lt.2 hj), hswap]
    rfl

/-- On a constructed unit SHUF is the loop from position LEN-1; on a deck of 0 or 1 elements it has no round. -/
theorem exec_shufOf_of_valid {a : GenUnit} {s : State} (h : s.valid.get a = true) :
    exec (shufOf a) s = .next (State.shuffleFrom a (s.len.toNat - 1) s) := by
  rw [exec_shufOf, State.shuffle, if_pos h]
  split
  · next hlen => rw [show s.len.toNat - 1 = 0 by omega, State.shuffleFrom]
  · rfl

theorem exec_shufOf_of_not_valid {a : GenUnit} {s : State} (h : s.valid.get a = false) :
    exec (shufOf a) s = .next (s.faulted 4#4 (s.port.cmd.setWidth 64)) := by
  rw [exec_shufOf, State.shuffle, h, if_neg Bool.false_ne_true, State.raiseCmd_eq_faulted, FaultCode.code]

/-! ## The statements -/

/-- Settles O48: with LEN at most 1 the loop starts at position 0, where it ends. -/
theorem shufOfAShortDeckIsANoOp : Obligations.ShufOfAShortDeckIsANoOp := by
  intro a s hv hlen
  rw [exec_shufOf_of_valid hv, show s.len.toNat - 1 = 0 by omega]
  rfl

/-- Settles O50: after LEN-1 rounds the loop stands at position 0. -/
theorem shufCompletesAsFisherYates : Obligations.ShufCompletesAsFisherYates := by
  intro a s hv hr
  obtain ⟨d, c, hdeck, hloop⟩ := State.shuffleFrom_rounds (s := s) (a := a) le_rfl
    (State.InRangeAbove.mono (i := 0) hr (Nat.zero_le _))
  rw [Nat.sub_self] at hloop
  exact ⟨_, d, c, (exec_shufOf_of_valid hv).trans (congrArg _ hloop), rfl, hdeck.above, hdeck.written⟩

/-- Settles O51: after LEN-1-i rounds the loop stands at position i, whose draw is the next one. -/
theorem shufStopsAtTheFirstIndexOutOfRange : Obligations.ShufStopsAtTheFirstIndexOutOfRange := by
  intro a s i hv hi hlen hr hout
  have hpos : s.len.toNat - 1 - (s.len.toNat - 1 - i) = i := by omega
  obtain ⟨d, c, hdeck, hloop⟩ := State.shuffleFrom_rounds (s := s) (a := a) (n := s.len.toNat - 1 - i) (by omega)
    (by rwa [hpos])
  obtain ⟨p, rfl⟩ := Nat.exists_eq_add_of_le' hi
  rw [hpos, State.shuffleFrom_round hpos.symm, if_pos hout, State.raise_eq_faulted,
    show s.len.toNat - 1 - (p + 1) + 1 = s.len.toNat - (p + 1) by omega] at hloop
  exact ⟨_, d, c, (exec_shufOf_of_valid hv).trans (congrArg _ hloop), rfl, hdeck.above, hdeck.written⟩

/-- Every index is in range, or there is a first position, from above, where it is not. -/
theorem State.drawsInRange_or_first (s : State) (a : GenUnit) :
    s.drawsInRange a ∨ ∃ i, 1 ≤ i ∧ i < s.len.toNat ∧ s.InRangeAbove a i ∧ i < s.swapIndex a i := by
  suffices h : ∀ i, s.InRangeAbove a i →
      s.drawsInRange a ∨ ∃ i, 1 ≤ i ∧ i < s.len.toNat ∧ s.InRangeAbove a i ∧ i < s.swapIndex a i from
    h s.len.toNat fun p hlo hhi => absurd hhi hlo.not_gt
  intro i hr
  induction i with
  | zero => exact .inl hr
  | succ i ih =>
    by_cases hout : i + 1 < s.len.toNat ∧ i + 1 < s.swapIndex a (i + 1)
    · exact .inr ⟨i + 1, by omega, hout.1, hr, hout.2⟩
    · refine ih fun p hp hlen => ?_
      rcases eq_or_ne p (i + 1) with rfl | hne
      · omega
      · exact hr p (by omega) hlen

/-- On a constructed unit, however SHUF ends, a written deck has gone through some rounds in range. -/
theorem exec_shufOf_rounds {a : GenUnit} {s : State} (hv : s.valid.get a = true) :
    ∃ t n, exec (shufOf a) s = .next t ∧ s.InRangeAbove a (s.len.toNat - 1 - n) ∧ n ≤ s.len.toNat - 1 ∧
      (s.deckWritten → t.view = s.shuffledView a n) := by
  rcases s.drawsInRange_or_first a with hr | ⟨i, hi, hlen, hr, hout⟩
  · obtain ⟨t, _, _, ht, -, -, hview⟩ := shufCompletesAsFisherYates a s hv hr
    exact ⟨t, _, ht, State.InRangeAbove.mono (i := 0) hr (Nat.zero_le _), le_rfl, fun hw => funext (hview hw).2⟩
  · obtain ⟨t, _, _, ht, -, -, hview⟩ := shufStopsAtTheFirstIndexOutOfRange a s i hv hi hlen hr hout
    exact ⟨t, s.len.toNat - 1 - i, ht, hr.mono (by omega), Nat.sub_le _ _, fun hw => funext (hview hw).2⟩

/-- Settles O52: swaps of live positions permute; SHUF writes neither LEN nor the elements above it. -/
theorem shufPermutesTheDeck : Obligations.ShufPermutesTheDeck := by
  intro a s
  have hnot : shufOf a ≠ .reset ∧ ∀ n, shufOf a ≠ .dklen n := by cases a <;> exact ⟨nofun, nofun⟩
  obtain ⟨t, ht, hlen, -, habove⟩ := deckAndLenHaveOnlyTheirWriters (shufOf a) s hnot.1
  refine ⟨t, ht, hlen hnot.2, habove, fun hw => ?_⟩
  cases hv : s.valid.get a with
  | false =>
    cases ht.symm.trans (exec_shufOf_of_not_valid hv)
    exact .refl _
  | true =>
    obtain ⟨u, n, hu, hr, hn, hview⟩ := exec_shufOf_rounds hv
    cases ht.symm.trans hu
    rw [hview hw]
    exact State.shuffledView_perm hr hn

end Sys2Proof.Machine
end

section
/-!
PROOFS. The statements of spec/45_system.md: RDCR (R170), which reads STATUS (spec/10_state.md R28), LEN (R29) or FINFO
(R30), and RESET (R171).
-/
namespace Sys2Proof.Machine

/-! ## RDCR (R170) -/

/-- An appended field shifts what stands above it by its own width. -/
theorem toNat_append_eq_mul_add {v w : Nat} (x : BitVec v) (y : BitVec w) :
    (x ++ y).toNat = x.toNat * 2 ^ w + y.toNat := by
  rw [BitVec.toNat_append, ← Nat.shiftLeft_add_eq_or_of_lt y.isLt, Nat.shiftLeft_eq]

/-- R28: STATUS as a number; each VALID bit doubles what stands above it, and nothing stands above FAULT. -/
theorem State.toNat_status (s : State) :
    s.status.toNat = 16 * s.fault.toNat + 8 * s.valid.well.toNat + 4 * s.valid.pcg.toNat + 2 * s.valid.mt.toNat
      + s.valid.xs.toNat := by
  simp only [State.status, toNat_append_eq_mul_add, BitVec.toNat_ofNat, BitVec.toNat_ofBool]
  omega

theorem State.status_eq_ofNat (s : State) :
    s.status = BitVec.ofNat 64 (16 * s.fault.toNat + 8 * s.valid.well.toNat + 4 * s.valid.pcg.toNat
      + 2 * s.valid.mt.toNat + s.valid.xs.toNat) := by
  rw [← s.toNat_status, BitVec.ofNat_toNat, BitVec.setWidth_eq]

/-- There are three control registers. -/
theorem State.controlRegister_eq_none (s : State) {r : Nat} (h : 2 < r) : s.controlRegister r = none := by
  match r with
  | _ + 3 => rfl

theorem exec_rdcr_of_some {r : BitVec 16} {s : State} {d : DWord} (h : s.controlRegister r.toNat = some d) :
    exec (.rdcr r) s = .next (s.completed d) := by
  simp only [exec, execRdcr, immNat, h]
  rfl

theorem exec_rdcr_of_none {r : BitVec 16} {s : State} (h : s.controlRegister r.toNat = none) :
    exec (.rdcr r) s = .next (s.faulted 1#4 (s.port.cmd.setWidth 64)) := by
  simp only [exec, execRdcr, immNat, h, State.raiseCmd_eq_faulted, FaultCode.code]

/-- Settles O53: the three registers that exist, and none above. -/
theorem rdcrReadsTheControlRegisters : Obligations.RdcrReadsTheControlRegisters := fun s =>
  ⟨exec_rdcr_of_some (congrArg some s.status_eq_ofNat),
    exec_rdcr_of_some (congrArg some (BitVec.ofNat_toNat 64 s.len).symm), exec_rdcr_of_some rfl,
    fun _ hr => exec_rdcr_of_none (s.controlRegister_eq_none hr)⟩

/-! ## RESET (R171) -/

/-- Settles O54: the values stand in `State.enterReset`, which keeps the host's side; the response is 0. -/
theorem resetCommandLeavesTheResetState : Obligations.ResetCommandLeavesTheResetState := fun s =>
  ⟨_, exec_reset s, rfl, rfl, rfl, rfl, fun _ => rfl, rfl, rfl⟩

end Sys2Proof.Machine
end

section
/-!
PROOFS. The statements of spec/60_exceptions.md: when INDEX_RANGE arises (R186), NOT_CONSTRUCTED of SHUF (R185), and
that no fault stops the CORE (R180, R197).
-/
namespace Sys2Proof.Machine

/-! ## The word condition of INDEX_RANGE (R186), XS -/

theorem one_le_normDiv_xs_iff (w : Word) : 1 ≤ normDiv w (unitDiv .xs) ↔ 2 ^ 31 ≤ w.toNat := by
  rw [show normDiv w (unitDiv .xs) = (w.toNat : ℚ) / 2 ^ 31 from normDiv_xsDiv w, one_le_div (by positivity)]
  norm_cast

/-- The index is the integer part of w (i + 1) / 2^31, which reaches i + 1 when w reaches 2^31. -/
theorem lt_shufIndex_xs_iff (w : Word) {i : Nat} (hlo : 1 ≤ i) (hhi : i ≤ 65534) :
    i < shufIndex (normDiv w (unitDiv .xs)) (i + 1) ↔ 2 ^ 31 ≤ w.toNat := by
  rw [(shufIndexOfXsInIntegers w (i + 1) (by omega) (by omega)).1, ← Nat.succ_le_iff, Nat.succ_eq_add_one,
    Nat.le_div_iff_mul_le (by positivity), Nat.mul_comm (i + 1)]
  exact Nat.mul_le_mul_right_iff (Nat.succ_pos i)

/-! ## The word condition of INDEX_RANGE (R186), MT, PCG and WELL -/

/-- The product of the float 1 with n is exact, so the index is n itself. -/
theorem shufIndex_one {n : Nat} (hn : n < 2 ^ 53) : shufIndex 1 n = n := by
  have hexact : rne64 (n : ℚ) = n := by simpa using rne64_natCast_div_two_pow hn 0
  rw [shufIndex_eq_floor, one_mul, hexact, Nat.floor_natCast]

section
variable {a : GenUnit} (ha : a ≠ .xs) (w : Word)
include ha

theorem one_le_normDiv_iff_of_ne_xs : 1 ≤ normDiv w (unitDiv a) ↔ w = 0xFFFFFFFF#32 := by
  rw [unitDiv_of_ne_xs ha, ← normDiv_u32Div_eq_one_iff]
  exact (normDiv_u32Div_le_one w).ge_iff_eq

/-- R155 (b) leaves open one less than the integer part of w n / (2^32 - 1), but never more. -/
theorem shufIndex_le_div_of_ne_xs {n : Nat} (hlo : 2 ≤ n) (hhi : n ≤ 65535) :
    shufIndex (normDiv w (unitDiv a)) n ≤ w.toNat * n / 4294967295 := by
  obtain ⟨-, hoff, hon⟩ := shufIndexOfOthersInIntegers a w n ha hlo hhi
  by_cases hD : 4294967295 ∣ w.toNat * n
  · have := hon hD
    omega
  · exact (hoff hD).le

/-- A smaller word keeps the quotient below i + 1; the word 2^32 - 1 has the float 1. -/
theorem lt_shufIndex_iff_of_ne_xs {i : Nat} (hlo : 1 ≤ i) (hhi : i ≤ 65534) :
    i < shufIndex (normDiv w (unitDiv a)) (i + 1) ↔ w = 0xFFFFFFFF#32 := by
  constructor
  · intro hlt
    by_contra hw
    have hmax : w.toNat < 4294967295 := by bv_omega
    have hquot : w.toNat * (i + 1) / 4294967295 < i + 1 :=
      Nat.div_lt_of_lt_mul (Nat.mul_lt_mul_of_pos_right hmax (Nat.succ_pos i))
    have hle := shufIndex_le_div_of_ne_xs ha w (n := i + 1) (by omega) (by omega)
    omega
  · rintro rfl
    rw [unitDiv_of_ne_xs ha, normDiv_u32Div_largest, shufIndex_one (by omega)]
    exact Nat.lt_succ_self i

end

/-- Settles O43: both the index and the float come down to the same condition on the word. -/
theorem indexRangeExactlyWhenTheFloatReachesOne : Obligations.IndexRangeExactlyWhenTheFloatReachesOne := by
  intro a w i hlo hhi
  by_cases ha : a = .xs
  · subst ha
    rw [if_pos rfl]
    exact ⟨(lt_shufIndex_xs_iff w hlo hhi).trans (one_le_normDiv_xs_iff w).symm, one_le_normDiv_xs_iff w⟩
  · rw [if_neg ha]
    exact ⟨(lt_shufIndex_iff_of_ne_xs ha w hlo hhi).trans (one_le_normDiv_iff_of_ne_xs ha w).symm,
      one_le_normDiv_iff_of_ne_xs ha w⟩

/-! ## NOT_CONSTRUCTED of SHUF (R185, D27) -/

/-- Settles O49: the validity check comes before LEN is looked at. -/
theorem shufOfAnUnconstructedUnitFaults : Obligations.ShufOfAnUnconstructedUnitFaults :=
  fun _ _ hv => exec_shufOf_of_not_valid hv

/-! ## The CORE never stops (R180, R197) -/

/-- Settles O7, by the case of a step without a command. -/
theorem stepWithNothingPendingHoldsTheState : Obligations.StepWithNothingPendingHoldsTheState :=
  fun _ hp => step_of_nil hp

/-- A fault of an instruction is a response in the next state. -/
theorem exec_answers_next (i : Instr) (s : State) : ∃ u, exec i s = .next u := by
  by_cases hi : i = .reset
  · subst hi
    exact ⟨_, exec_reset s⟩
  · obtain ⟨u, hu, -⟩ := exec_performs i s hi
    exact ⟨u, hu⟩

/-- Settles O9: a legal command's instruction answers a next state, and a step of any other kind names its own. -/
theorem everyStepAnswersANextState : Obligations.EveryStepAnswersANextState := by
  intro s
  rcases step_cases s with ⟨-, h⟩ | ⟨t, rest, i, -, -, h⟩ | ⟨t, rest, r, -, -, h⟩ | ⟨rest, -, h⟩ | ⟨t, rest, -, h⟩
  · exact ⟨_, h⟩
  · obtain ⟨u, hu⟩ := exec_answers_next i (s.present t rest)
    exact ⟨u, h.trans hu⟩
  · exact ⟨_, h⟩
  · exact ⟨_, h⟩
  · exact ⟨_, h⟩

end Sys2Proof.Machine
end

section
/-!
PROOFS. The statements of spec/70_reset_and_hazards.md: the hard reset (R200) and the absorbing zero state of Xorshift32
(R207).
-/
namespace Sys2Proof.Machine

/-! ## The zero state of Xorshift32 (R207) -/

/-- The step keeps zero, and being injective it takes no other word to zero. -/
theorem xsStep_eq_zero_iff {x : Word} : xsStep x = 0#32 ↔ x = 0#32 :=
  xsStep_injective.eq_iff' (by decide)

/-- A draw of XS steps the state word. -/
theorem State.draw_xs_xsX (s : State) : (s.draw .xs).2.xsX = xsStep s.xsX := rfl

/-- Settles O25, by induction on the number of draws. -/
theorem xsZeroStateIsAbsorbing : Obligations.XsZeroStateIsAbsorbing := by
  intro s k
  induction k with
  | zero => exact Iff.rfl
  | succ k ih => rw [State.drawN_succ, State.draw_xs_xsX, xsStep_eq_zero_iff, ih]

/-! ## The hard reset (R200) -/

@[simp] theorem State.hardReset_valid (s : State) : s.hardReset.valid = ValidBits.none := rfl
@[simp] theorem State.hardReset_deck (s : State) : s.hardReset.deck = [] := rfl
@[simp] theorem State.hardReset_len (s : State) : s.hardReset.len = 0#16 := rfl
@[simp] theorem State.hardReset_fault (s : State) : s.hardReset.fault = 0#4 := rfl
@[simp] theorem State.hardReset_finfo (s : State) : s.hardReset.finfo = 0#64 := rfl
@[simp] theorem State.hardReset_pending (s : State) : s.hardReset.pending = s.pending := rfl

/-- In an empty deck memory no element counts as written. -/
theorem State.view_of_deck_nil {s : State} (h : s.deck = []) (k : Nat) : s.view k = none := by
  rw [State.view, h]
  rfl

/-- Both kinds of reset event hard-reset the CORE and leave the rest of the host's list. -/
theorem step_of_resetEvent {s : State} {rest : List Event}
    (hp : s.pending = .hardReset :: rest ∨ ∃ t, s.pending = .aborted t :: rest) :
    ∃ u : State, step s = .next u.hardReset ∧ u.pending = rest := by
  rcases hp with hp | ⟨t, hp⟩
  · exact ⟨_, step_of_hardReset hp, s.setPending_pending rest⟩
  · exact ⟨_, step_of_aborted hp, s.present_pending t rest⟩

/-- Settles O8: either event enters `State.hardReset`, whose fields have the values of R36. -/
theorem hardResetLeavesTheResetState : Obligations.HardResetLeavesTheResetState := by
  intro s rest hp
  obtain ⟨u, hstep, hrest⟩ := step_of_resetEvent hp
  exact ⟨_, hstep, u.hardReset_valid, u.hardReset_len, u.hardReset_fault, u.hardReset_finfo,
    State.view_of_deck_nil u.hardReset_deck, u.hardReset_pending.trans hrest⟩

end Sys2Proof.Machine
end
